-- ==== Sys2Proof/Word.lean ====
section
/-! DEFINITION. The word types of the block: bytes on its data paths, 16-bit CRC arithmetic and frame fields (00_scope.md R8, R10). -/

namespace Sys2Proof

/-- `u8` of 00_scope.md R10: one byte of a frame. -/
abbrev Byte := BitVec 8

/-- `u16` of 00_scope.md R10: the CRC, a coil address or a coil count. -/
abbrev Half := BitVec 16

/-- A caller's identity (00_scope.md R9: any finite set of callers, no bound). -/
abbrev CallerId := Nat

end Sys2Proof
end

