-- ==== Sys2Proof/Machine/Crc.lean ====
section
/-! DEFINITION. The checksum unit's functions: `crc_step`, `crc16`, `append_crc` and the frame test (40_checksum.md R100 to R104). -/

namespace Sys2Proof.Machine

/-- One turn of the inner loop of `crc_step` (40_checksum.md R101): shift right, and XOR the constant 0xA001 in when bit 0 was 1. -/
def crcShift (c : Half) : Half :=
  if c.getLsbD 0 then (c >>> 1) ^^^ 0xA001 else c >>> 1

/-- `repeat n times` of R101. -/
def crcShifts : Nat → Half → Half
  | 0, c => c
  | n + 1, c => crcShifts n (crcShift c)

/-- `crc_step(c, b)` of R101. -/
def crcStep (c : Half) (b : Byte) : Half :=
  crcShifts 8 (c ^^^ b.setWidth 16)

/-- The CRC register after `bytes`, started at `c` (R101's loop; R106 law 4). -/
def crcFrom (c : Half) (bytes : List Byte) : Half :=
  bytes.foldl crcStep c

/-- `crc16(s)` of R101: initial value 0xFFFF, no final XOR (R100). -/
def crc16 (bytes : List Byte) : Half :=
  crcFrom 0xFFFF bytes

/-- The CRC field of a frame, low byte first (20_memory.md R54). -/
def crcField (c : Half) : List Byte :=
  [c.setWidth 8, (c >>> 8).setWidth 8]

/-- `append_crc(s)` (40_checksum.md R102). -/
def appendCrc (body : List Byte) : List Byte :=
  body ++ crcField (crc16 body)

/-- The CRC value a received frame carries, `f[|f|-2] | (f[|f|-1] << 8)` (20_memory.md R54). -/
def crcCarried (frame : List Byte) : Half :=
  (frame.getD (frame.length - 2) 0).setWidth 16 ||| ((frame.getD (frame.length - 1) 0).setWidth 16 <<< 8)

/-- The bytes a frame's CRC covers, `f[0..|f|-2)` (30_encoding.md R71). -/
def crcBody (frame : List Byte) : List Byte :=
  frame.take (frame.length - 2)

/-- The test of `CRC_VALIDATE` (R104) and of check 1 (42_relay_response.md R155); a frame shorter than 2 bytes is invalid. -/
def crcValid (frame : List Byte) : Bool :=
  decide (2 ≤ frame.length) && decide (crc16 (crcBody frame) = crcCarried frame)

end Sys2Proof.Machine
end

