-- ==== Sys2Proof/Machine/Operands.lean ====
section
/-! DEFINITION. Operand assembly (30_encoding.md R81): two-byte fields, the coil value field, packed coil bytes, and the narrowing of integer operands. -/

namespace Sys2Proof.Machine

/-- `v[15:8]`. -/
def hiByte (v : Half) : Byte :=
  (v >>> 8).setWidth 8

/-- `v[7:0]`. -/
def loByte (v : Half) : Byte :=
  v.setWidth 8

/-- A two-byte field as sent, high byte first (20_memory.md R53). -/
def field16 (v : Half) : List Byte :=
  [hiByte v, loByte v]

/-- A two-byte field as received, `(h << 8) | l` (20_memory.md R53). -/
def readField16 (h l : Byte) : Half :=
  (h.setWidth 16 <<< 8) ||| l.setWidth 16

/-- An integer operand narrowed to a two-byte field, `v[15:0]` (30_encoding.md R81). -/
def narrow16 (v : Int) : Half :=
  BitVec.ofInt 16 v

/-- The coil value field of `REQ_WR1` (30_encoding.md R74). -/
def coilValue (on : Bool) : Half :=
  if on then 0xFF00 else 0x0000

/-- `ceil_div(a, 8)` (00_scope.md R10). -/
def ceilDiv8 (a : Nat) : Nat :=
  (a + 7) / 8

/-- `pack(states)`: index 0 is the least significant bit (41_relay_commands.md R126). -/
def pack : List Bool → Byte
  | [] => 0
  | b :: rest => (pack rest <<< 1) ||| (if b then 1 else 0)

/-- `unpack(data, q)`: coil i is bit `i mod 8` of data byte `i div 8` (42_relay_response.md R164). -/
def unpack (data : List Byte) (q : Nat) : List Bool :=
  (List.range q).map fun i => (data.getD (i / 8) 0).getLsbD (i % 8)

end Sys2Proof.Machine
end

