-- ==== Sys2Proof/Syntax.lean ====
section
/-! DEFINITION. The instructions: one constructor per row of spec/opcode_table.json. The seven wire frames (30_encoding.md R79) and the seven commands of the command port (30_encoding.md R83). -/

namespace Sys2Proof

/-- The block's instructions. A frame's operands are the fields its format leaves open; its CRC is computed
(30_encoding.md R71), and byte 0 of a request is the configured `DEVICE_ADDR` (R70), so neither is an operand. -/
inductive Instr where
  /-- `READ_COILS_request`, format `REQ_RD` (R73): coil address and coil count. -/
  | readCoilsRequest (start qty : Half)
  /-- `SET_CHANNEL_request`, format `REQ_WR1` (R74): the coil address 0..7 (`N`, three bits) and on or off (`V`). -/
  | setChannelRequest (coil : BitVec 3) (on : Bool)
  /-- `SET_ALL_request`, format `REQ_WRN` (R75): the packed data byte (`D`). -/
  | setAllRequest (data : Byte)
  /-- `read-coils_response`, format `RSP_RD` (R77): address and `BC` data bytes. -/
  | readCoilsResponse (addr : Byte) (data : List Byte)
  /-- `write-single-coil_response`, format `RSP_WR1` (R76): address and the four unchecked bytes 2..5. -/
  | writeSingleCoilResponse (addr b2 b3 b4 b5 : Byte)
  /-- `write-multiple-coils_response`, format `RSP_WRN` (R76): address and the four unchecked bytes 2..5. -/
  | writeMultipleCoilsResponse (addr b2 b3 b4 b5 : Byte)
  /-- `exception_response`, format `RSP_EXC` (R78): address, bits 6:0 of byte 1 (`F`), exception code (`E`), and the bytes
  between the code and the CRC, which only a frame read under `LITERAL` has (42_relay_response.md R163). -/
  | exceptionResponse (addr : Byte) (fc : BitVec 7) (code : Byte) (extra : List Byte)
  /-- `CRC_COMPUTE bytes, length` (40_checksum.md R103). -/
  | crcCompute (bytes : List Byte) (length : Int)
  /-- `CRC_VALIDATE frame` (40_checksum.md R104). -/
  | crcValidate (frame : List Byte)
  /-- `READ_COILS start, count` (41_relay_commands.md R122). -/
  | readCoils (start count : Int)
  /-- `READ_ALL` (41_relay_commands.md R123). -/
  | readAll
  /-- `SET_CHANNEL channel, on` (41_relay_commands.md R124). -/
  | setChannel (channel : Int) (on : Bool)
  /-- `SET_ALL states` (41_relay_commands.md R125). -/
  | setAll (states : List Bool)
  /-- `DISPOSE` (43_relay_transaction.md R197). -/
  | dispose
deriving DecidableEq, Repr

end Sys2Proof
end

