-- ==== Sys2Proof/Decode.lean ====
section
/-! DEFINITION. The frame decoder and, after it, the frame encoder (30_encoding.md R70 to R82). Decoding is total on any bytes and rejects by name. -/

namespace Sys2Proof

open Machine

/-- Why a byte sequence is no frame of the decoder's direction. -/
inductive DecodeError where
  /-- Too short for a CRC, or the CRC is wrong (30_encoding.md R71, 42_relay_response.md R155). -/
  | crcMismatch
  /-- A request whose byte 0 is not the block's own `DEVICE_ADDR` (30_encoding.md R70). -/
  | foreignAddress
  /-- Byte 1 is no function code of the direction, or not the code that was sent (30_encoding.md R80). -/
  | functionMismatch
  /-- `BC` differs from the number of data bytes the frame has (30_encoding.md R77). -/
  | byteCountMismatch
  /-- The function code's format has another length or another constant field (30_encoding.md R82). -/
  | badShape
deriving DecidableEq, Repr

/-- Which way a frame travels. The same function codes serve requests and responses (30_encoding.md R79). -/
inductive Direction where
  | tx
  | rx
deriving DecidableEq, Repr

/-- The function codes the encoder emits (30_encoding.md R79). -/
abbrev fcReadCoils : Byte := 0x01
abbrev fcWriteSingleCoil : Byte := 0x05
abbrev fcWriteMultipleCoils : Byte := 0x0F

/-- The data-byte layout of a request body, by function code (30_encoding.md R73, R74, R75). -/
def decodeRequestBody (addr : Byte) (body : List Byte) : Except DecodeError Instr :=
  match body with
  | a :: fc :: payload =>
    if a ≠ addr then .error .foreignAddress
    else if fc = fcReadCoils then
      match payload with
      | [startHi, startLo, qtyHi, qtyLo] => .ok (.readCoilsRequest (readField16 startHi startLo) (readField16 qtyHi qtyLo))
      | _ => .error .badShape
    else if fc = fcWriteSingleCoil then
      match payload with
      | [coilHi, coilLo, valHi, valLo] =>
        if coilHi = 0 ∧ coilLo.toNat < 8 ∧ readField16 valHi valLo = coilValue true then
          .ok (.setChannelRequest (coilLo.setWidth 3) true)
        else if coilHi = 0 ∧ coilLo.toNat < 8 ∧ readField16 valHi valLo = coilValue false then
          .ok (.setChannelRequest (coilLo.setWidth 3) false)
        else .error .badShape
      | _ => .error .badShape
    else if fc = fcWriteMultipleCoils then
      match payload with
      | [startHi, startLo, qtyHi, qtyLo, bc, data] =>
        if readField16 startHi startLo = 0 ∧ readField16 qtyHi qtyLo = 8 ∧ bc = 1 then .ok (.setAllRequest data)
        else .error .badShape
      | _ => .error .badShape
    else .error .functionMismatch
  | _ => .error .badShape

/-- A request frame of the block whose device address is `addr`. -/
def decodeRequest (addr : Byte) (frame : List Byte) : Except DecodeError Instr :=
  if crcValid frame then decodeRequestBody addr (crcBody frame) else .error .crcMismatch

/-- The format of a response, picked from `REQ_FC` and bit 7 of byte 1, never from the received code alone (30_encoding.md R79). -/
def decodeResponseBody (reqFc : Byte) (body : List Byte) : Except DecodeError Instr :=
  match body with
  | addr :: fc :: payload =>
    if fc.getLsbD 7 then
      match payload with
      | code :: extra => .ok (.exceptionResponse addr (fc.setWidth 7) code extra)
      | [] => .error .badShape
    else if fc ≠ reqFc then .error .functionMismatch
    else if fc = fcReadCoils then
      match payload with
      | bc :: data => if bc.toNat = data.length then .ok (.readCoilsResponse addr data) else .error .byteCountMismatch
      | [] => .error .badShape
    else if fc = fcWriteSingleCoil then
      match payload with
      | [b2, b3, b4, b5] => .ok (.writeSingleCoilResponse addr b2 b3 b4 b5)
      | _ => .error .badShape
    else if fc = fcWriteMultipleCoils then
      match payload with
      | [b2, b3, b4, b5] => .ok (.writeMultipleCoilsResponse addr b2 b3 b4 b5)
      | _ => .error .badShape
    else .error .functionMismatch
  | _ => .error .badShape

/-- A complete response frame to a request with function code `reqFc`. A frame with a bad CRC is not read further (42_relay_response.md R155). -/
def decodeResponse (reqFc : Byte) (frame : List Byte) : Except DecodeError Instr :=
  if crcValid frame then decodeResponseBody reqFc (crcBody frame) else .error .crcMismatch

/-- The frame of `REQ_RD` (30_encoding.md R73). -/
def frameReadCoils (addr : Byte) (start qty : Half) : List Byte :=
  appendCrc ([addr, fcReadCoils] ++ field16 start ++ field16 qty)

/-- The frame of `REQ_WR1` (30_encoding.md R74). -/
def frameSetChannel (addr : Byte) (coil : BitVec 3) (on : Bool) : List Byte :=
  appendCrc ([addr, fcWriteSingleCoil, 0x00, coil.setWidth 8] ++ field16 (coilValue on))

/-- The frame of `REQ_WRN` as emitted (30_encoding.md R75). -/
def frameSetAll (addr : Byte) (data : Byte) : List Byte :=
  appendCrc [addr, fcWriteMultipleCoils, 0x00, 0x00, 0x00, 0x08, 0x01, data]

/-- The frame of `RSP_RD` (30_encoding.md R77). -/
def frameReadResponse (addr : Byte) (data : List Byte) : List Byte :=
  appendCrc (addr :: fcReadCoils :: BitVec.ofNat 8 data.length :: data)

/-- The frame of `RSP_WR1` (30_encoding.md R76). -/
def frameWriteSingleResponse (addr b2 b3 b4 b5 : Byte) : List Byte :=
  appendCrc [addr, fcWriteSingleCoil, b2, b3, b4, b5]

/-- The frame of `RSP_WRN` (30_encoding.md R76). -/
def frameWriteMultipleResponse (addr b2 b3 b4 b5 : Byte) : List Byte :=
  appendCrc [addr, fcWriteMultipleCoils, b2, b3, b4, b5]

/-- The frame of `RSP_EXC` (30_encoding.md R78); `extra` is empty but for a frame read under `LITERAL` (42_relay_response.md R163). -/
def frameException (addr : Byte) (fc : BitVec 7) (code : Byte) (extra : List Byte) : List Byte :=
  appendCrc (addr :: (0x80 ||| fc.setWidth 8) :: code :: extra)

/-- The bytes of a frame instruction on the wire of the block whose device address is `deviceAddr`; none for a command, which
has no binary encoding (30_encoding.md R83). -/
def encode (deviceAddr : Byte) : Instr → Option (List Byte)
  | .readCoilsRequest start qty => some (frameReadCoils deviceAddr start qty)
  | .setChannelRequest coil on => some (frameSetChannel deviceAddr coil on)
  | .setAllRequest data => some (frameSetAll deviceAddr data)
  | .readCoilsResponse addr data => some (frameReadResponse addr data)
  | .writeSingleCoilResponse addr b2 b3 b4 b5 => some (frameWriteSingleResponse addr b2 b3 b4 b5)
  | .writeMultipleCoilsResponse addr b2 b3 b4 b5 => some (frameWriteMultipleResponse addr b2 b3 b4 b5)
  | .exceptionResponse addr fc code extra => some (frameException addr fc code extra)
  | .crcCompute _ _ => none
  | .crcValidate _ => none
  | .readCoils _ _ => none
  | .readAll => none
  | .setChannel _ _ => none
  | .setAll _ => none
  | .dispose => none

/-- The frame that stands for a word of spec/opcode_table.json, with its direction. The table numbers the bits of frame
byte 1: bits 7:0 are the function code, and bit 8 is the reader's mark of a row whose frame is 8 bytes long. Every operand
byte is 0, the constant fields of 30_encoding.md R75 stand, and the CRC is the CRC of those bytes. Request and response rows
share function codes; where the lengths differ they tell the rows apart, and 0x05, whose two frames are alike, is read as
the response: DESIGN CHOICE, safe (log entry 13). -/
def tableFrame (nbits w : Nat) : Option (Direction × List Byte) :=
  let fc : Byte := BitVec.ofNat 8 w
  if nbits = 0 then none
  else if fc.getLsbD 7 then some (.rx, appendCrc [0, fc, 0])
  else if fc = fcReadCoils then
    if 8 < nbits then some (.tx, appendCrc [0, fc, 0, 0, 0, 0]) else some (.rx, appendCrc [0, fc, 0])
  else if fc = fcWriteMultipleCoils then
    if 8 < nbits then some (.rx, appendCrc [0, fc, 0, 0, 0, 0]) else some (.tx, appendCrc [0, fc, 0, 0, 0, 8, 1, 0])
  else if fc = fcWriteSingleCoil then some (.rx, appendCrc [0, fc, 0, 0, 0, 0])
  else none

/-- The instruction the decoder reads from a word numbered as spec/opcode_table.json numbers it. A response is decoded as the
answer to the request with its own function code. -/
def decodeTableWord (nbits w : Nat) : Option Instr :=
  match tableFrame nbits w with
  | some (.tx, frame) => (decodeRequest 0 frame).toOption
  | some (.rx, frame) => (decodeResponse (BitVec.ofNat 8 w) frame).toOption
  | none => none

end Sys2Proof
end

