-- ==== Sys2Proof/Config.lean ====
section
/-! DEFINITION. The implementation parameters of 00_scope.md R7: the configuration record (latched at reset, 70_reset_and_hazards.md R251) and the fixed sizes. -/

namespace Sys2Proof

/-- `EXC_LENGTH_POLICY` (R7): how long a response with the exception bit set is taken to be (42_relay_response.md R152, R153). -/
inductive ExcLengthPolicy where
  | early
  | literal
deriving DecidableEq, Repr

/-- `IDLE_RX_POLICY` (R7): what happens to bytes that arrive when no response is awaited (42_relay_response.md R165). -/
inductive IdleRxPolicy where
  | discard
  | keep
deriving DecidableEq, Repr

/-- The configuration record of R7, the block's only control registers (10_state.md R34). A value of this type is a
configuration that can be given to the model: an ill-typed one cannot be written (70_reset_and_hazards.md R251). -/
structure Config where
  /-- `DEVICE_ADDR`, any byte; no value is special (92_eei_decisions.md D25). -/
  deviceAddr : Byte
  /-- `ENABLED`: whether bus commands are performed. -/
  enabled : Bool
  /-- `EXC_LENGTH_POLICY`. -/
  excLength : ExcLengthPolicy
  /-- `IDLE_RX_POLICY`. -/
  idleRx : IdleRxPolicy
  /-- `TIMEOUT_MS`; no rule reads it (60_exceptions.md R232). DESIGN CHOICE of type, safe (log entry 18). -/
  timeoutMs : Nat
  /-- `SERIAL_PORT`, as the bytes of the port's name; no rule reads it. DESIGN CHOICE of type, safe (log entry 18). -/
  serialPort : List Byte
  /-- `BAUD`; no rule reads it. DESIGN CHOICE of type, safe (log entry 18). -/
  baud : Nat
  /-- `PARITY`, by number; no rule reads it. DESIGN CHOICE of type, safe (log entry 18). -/
  parity : Nat
  /-- `DATA_BITS`; no rule reads it. DESIGN CHOICE of type, safe (log entry 18). -/
  dataBits : Nat
  /-- `STOP_BITS`, by number; no rule reads it. DESIGN CHOICE of type, safe (log entry 18). -/
  stopBits : Nat
deriving DecidableEq, Repr

/-- The configuration `State.reset` is built with. `ENABLED = false`, `EARLY` and `DISCARD` are the defaults R7 gives;
the OPEN parameters hold values of the model's: DESIGN CHOICE, unsafe (log entry 2). -/
def Config.default : Config where
  deviceAddr := 0x01
  enabled := false
  excLength := .early
  idleRx := .discard
  timeoutMs := 0
  serialPort := []
  baud := 0
  parity := 0
  dataBits := 0
  stopBits := 0

/-- `NUM_CHANNELS` (R7). -/
abbrev numChannels : Nat := 8

/-- `MAX_READ_COUNT` (R7). -/
abbrev maxReadCount : Nat := 2000

/-- `RX_CAPACITY` (R7): the longest response frame, `3 + 255 + 2` bytes (10_state.md R31). -/
abbrev rxCapacity : Nat := 260

end Sys2Proof
end

