-- ==== Sys2Proof/Machine/State.lean ====
section
/-! DEFINITION. The state of the block (10_state.md R20 to R39), the records on its ports (30_encoding.md R83 to R85, 60_exceptions.md R220 to R222), the events of its environment (43_relay_transaction.md R199), and the state after reset. -/

namespace Sys2Proof.Machine

/-- `PHASE` (10_state.md R21). -/
inductive Phase where
  | idle
  | awaitRsp
  | disposed
deriving DecidableEq, Repr

/-- The values of `REQ_CMD` (10_state.md R20). -/
inductive ReqCmd where
  | readCoils
  | readAll
  | setChannel
  | setAll
deriving DecidableEq, Repr

/-- The bus commands with their operands as presented (30_encoding.md R83, R84). -/
inductive BusCommand where
  | readCoils (start count : Int)
  | readAll
  | setChannel (channel : Int) (on : Bool)
  | setAll (states : List Bool)
deriving DecidableEq, Repr

/-- A command record of the command port: exactly the seven tags of 30_encoding.md R83. -/
inductive Command where
  | crcCompute (bytes : List Byte) (length : Int)
  | crcValidate (frame : List Byte)
  | bus (c : BusCommand)
  | dispose
deriving DecidableEq, Repr

/-- The `cmd` of `HELD(cmd)`: a bus command, or `DISPOSE` (43_relay_transaction.md R191, R197). DEDUCED, safe: 10_state.md R32
names only the bus commands (log entry 17). -/
inductive HeldCommand where
  | bus (c : BusCommand)
  | dispose
deriving DecidableEq, Repr

/-- The state of a caller (10_state.md R32). -/
inductive CallerState where
  | free
  | held (cmd : HeldCommand)
  | inflight (cmd : BusCommand)
deriving DecidableEq, Repr

/-- The subkinds of `ArgumentError` (60_exceptions.md R221). -/
inductive ArgSub where
  | countRange
  | startRange
  | channelRange
  | statesLength
  | badLength
deriving DecidableEq, Repr

/-- The subkinds of `ProtocolError` whose info is the frame alone (60_exceptions.md R221, R222). -/
inductive ProtoSub where
  | crcMismatch
  | addressMismatch
  | functionMismatch
  | byteCountMismatch
deriving DecidableEq, Repr

/-- The subkinds of `ConnectionError` (60_exceptions.md R221). -/
inductive ConnSub where
  | openFailed
  | disposed
  | ioFault
deriving DecidableEq, Repr

/-- An error with its info, exactly the fields of 60_exceptions.md R222. -/
inductive BusError where
  /-- `ArgumentError(sub)`. -/
  | argument (sub : ArgSub)
  /-- `Timeout(READ)` with the number of bytes received. -/
  | timeoutRead (received : Nat)
  /-- `Timeout(WRITE)` with the number of request bytes emitted. -/
  | timeoutWrite (sent : Nat)
  /-- `ProtocolError` of a frame check, with the received frame. -/
  | protocol (sub : ProtoSub) (frame : List Byte)
  /-- `ProtocolError(DEVICE_EXCEPTION)` with the code, the function-code byte and the received frame. -/
  | deviceException (code fc : Byte) (frame : List Byte)
  /-- `ConnectionError(sub)`. -/
  | connection (sub : ConnSub)
  /-- `ConfigError(DISABLED)`. -/
  | configDisabled
deriving DecidableEq, Repr

/-- The value of an `Ok` result (00_scope.md R13). -/
inductive Value where
  | crc (c : Half)
  | bool (b : Bool)
  | coils (c : List Bool)
  | unit
deriving DecidableEq, Repr

/-- A result of the result port (00_scope.md R13, 30_encoding.md R85). -/
inductive Result where
  | ok (v : Value)
  | err (e : BusError)
deriving DecidableEq, Repr

/-- What `ENV` draws for an open attempt (43_relay_transaction.md R192). -/
inductive OpenOutcome where
  | openOk
  | openFail
deriving DecidableEq, Repr

/-- What `ENV` draws for a transmission (43_relay_transaction.md R193). -/
inductive SendOutcome where
  | sent
  | writeTimeout (j : Nat)
deriving DecidableEq, Repr

/-- The outcomes `ENV` will draw for one command, if it comes to draw them. -/
structure EnvAnswer where
  opening : OpenOutcome
  sending : SendOutcome
deriving DecidableEq, Repr

/-- What the agents around the block can do (43_relay_transaction.md R199), and the taking up of a held caller (R191). -/
inductive Event where
  /-- Caller `k` presents a command; `ans` holds the outcomes `ENV` draws for it. -/
  | present (k : CallerId) (c : Command) (ans : EnvAnswer)
  /-- The block takes up the held caller `k` (R191). -/
  | takeUp (k : CallerId) (ans : EnvAnswer)
  /-- `RxByte(b)`. -/
  | rxByte (b : Byte)
  /-- `TIMEOUT`. -/
  | timeout
  /-- `IO_FAULT`. -/
  | ioFault
deriving DecidableEq, Repr

/-- The reasons the machine can stop with a fault: none. An error of the block is a result (60_exceptions.md R226), and no
rule stops it. Safe. -/
inductive Fault where
deriving DecidableEq, Repr

/-- The reasons a step can be refused. -/
inductive Refusal where
  /-- The host's rejection of an instruction without a meaning; no arm of `exec` raises it. Safe. -/
  | notModelled (mnemonic : String)
  /-- Raised by a `present` event of a caller that has a command outstanding: the spec refuses it
  (93_implementation_defined.md U21, 92_eei_decisions.md D32). Safe. -/
  | callerBusy
deriving DecidableEq, Repr

/-- The state of the block, the states of its callers, its latched configuration, its output ports and the events to come. -/
structure State where
  /-- The configuration record, latched at reset and never written (10_state.md R34). DEDUCED, safe (log entry 1). -/
  cfg : Config
  /-- `PHASE` (10_state.md R21). -/
  phase : Phase
  /-- `LOCK_OWNER`, `none` for `NONE` (10_state.md R23). -/
  lockOwner : Option CallerId
  /-- `PORT_OPEN` (10_state.md R24). -/
  portOpen : Bool
  /-- `REQ_CMD` (10_state.md R25). -/
  reqCmd : ReqCmd
  /-- `REQ_ADDR` (10_state.md R25). -/
  reqAddr : Byte
  /-- `REQ_FC` (10_state.md R26). -/
  reqFc : Byte
  /-- `REQ_START` (10_state.md R27). -/
  reqStart : Half
  /-- `REQ_QTY` (10_state.md R27). -/
  reqQty : Half
  /-- `RX_BUF`, byte 0 first (10_state.md R28). -/
  rxBuf : List Byte
  /-- `RX_EXPECT`, `none` for `UNKNOWN` (10_state.md R29). -/
  rxExpect : Option Nat
  /-- `RX_PENDING`, oldest byte first (10_state.md R30). -/
  rxPending : List Byte
  /-- The callers that are not `FREE`, ids strictly rising; an unlisted caller is `FREE` (10_state.md R32). -/
  callers : List (CallerId × CallerState)
  /-- The `TxFrame` events so far, oldest first (43_relay_transaction.md R193, R200). The model's own field. -/
  txLog : List (List Byte)
  /-- The results delivered so far, oldest first (30_encoding.md R85, 43_relay_transaction.md R200). The model's own field. -/
  results : List (CallerId × Result)
  /-- The events to come, the next one first. The model's own field: DESIGN CHOICE, safe (log entry 4). -/
  inputs : List Event
  /-- The caller whose command is being processed (00_scope.md R12). The model's own field: DESIGN CHOICE, safe (log entry 5). -/
  cur : CallerId
  /-- The outcomes `ENV` draws for that command. The model's own field: DESIGN CHOICE, safe (log entry 5). -/
  answer : EnvAnswer
deriving DecidableEq, Repr

/-- Reset with a configuration (70_reset_and_hazards.md R250, 10_state.md R38). The `REQ_*` registers, which R38 leaves
unspecified, are 0 and `READ_COILS`: DESIGN CHOICE, unsafe (log entry 3). -/
def State.resetWith (cfg : Config) : State where
  cfg := cfg
  phase := .idle
  lockOwner := none
  portOpen := false
  reqCmd := .readCoils
  reqAddr := 0
  reqFc := 0
  reqStart := 0
  reqQty := 0
  rxBuf := []
  rxExpect := none
  rxPending := []
  callers := []
  txLog := []
  results := []
  inputs := []
  cur := 0
  answer := ⟨.openOk, .sent⟩

/-- The machine right after reset, with the default configuration (log entry 2). -/
def State.reset : State := State.resetWith Config.default

end Sys2Proof.Machine
end

