-- ==== Sys2Proof/Machine/Callers.lean ====
section
/-! DEFINITION. The table of caller states (10_state.md R32): one canonical form, ids strictly rising and no `FREE` entry, so that equal tables are equal data. -/

namespace Sys2Proof.Machine

/-- The state of caller `k`; an unlisted caller is `FREE`. -/
def callersGet : List (CallerId × CallerState) → CallerId → CallerState
  | [], _ => .free
  | (j, c) :: rest, k => if j = k then c else callersGet rest k

/-- The table without caller `k`. -/
def callersErase : List (CallerId × CallerState) → CallerId → List (CallerId × CallerState)
  | [], _ => []
  | (j, c) :: rest, k => if j = k then callersErase rest k else (j, c) :: callersErase rest k

/-- Caller `k` put in its place by id. -/
def callersInsert : List (CallerId × CallerState) → CallerId → CallerState → List (CallerId × CallerState)
  | [], k, c => [(k, c)]
  | (j, d) :: rest, k, c => if k < j then (k, c) :: (j, d) :: rest else (j, d) :: callersInsert rest k c

/-- The table with caller `k` in state `c`; a `FREE` caller is not listed. -/
def callersSet (t : List (CallerId × CallerState)) (k : CallerId) (c : CallerState) : List (CallerId × CallerState) :=
  match c with
  | .free => callersErase t k
  | .held h => callersInsert (callersErase t k) k (.held h)
  | .inflight b => callersInsert (callersErase t k) k (.inflight b)

/-- The canonical form of the table, as a test. -/
def callersWf : List (CallerId × CallerState) → Bool
  | [] => true
  | (j, c) :: rest => decide (c ≠ .free) && rest.all (fun e => decide (j < e.1)) && callersWf rest

/-- The state of caller `k` in `s`. -/
def State.callerOf (s : State) (k : CallerId) : CallerState :=
  callersGet s.callers k

/-- `s` with caller `k` in state `c`. -/
def State.setCaller (s : State) (k : CallerId) (c : CallerState) : State :=
  { s with callers := callersSet s.callers k c }

end Sys2Proof.Machine
end

