-- ==== Sys2Proof/Machine/Ops.lean ====
section
/-! DEFINITION. The shared operations of the block: delivering a result, raising an error, ending a transaction, reading a response, sending a request, accepting a bus command (41_relay_commands.md R120 to R128, 42_relay_response.md R150 to R165, 43_relay_transaction.md R190 to R197). -/

namespace Sys2Proof.Machine

/-- `complete(k, r)` (00_scope.md R12): result `r` is delivered to caller `k`, whose wait ends (10_state.md R32). -/
def complete (k : CallerId) (r : Result) (s : State) : State :=
  { s with results := s.results ++ [(k, r)], callers := callersSet s.callers k .free }

/-- `raise E(info)` (00_scope.md R12), the block's only way to take an error: the caller whose command is being processed gets
it as its result. Nothing is saved, vectored or masked (60_exceptions.md R226), and there is no return (R228). -/
def raise (e : BusError) (s : State) : State :=
  complete s.cur (.err e) s

/-- Delivery of a transaction's result to `LOCK_OWNER` (43_relay_transaction.md R196). With no owner, which no run reaches
(10_state.md R23), there is nobody to deliver to: DESIGN CHOICE, safe (log entry 15). -/
def completeOwner (r : Result) (s : State) : State :=
  match s.lockOwner with
  | some k => complete k r s
  | none => s

/-- `end_transaction()` (43_relay_transaction.md R196). -/
def endTransaction (s : State) : State :=
  { s with rxBuf := [], rxExpect := none, lockOwner := none, phase := .idle }

/-- How every transaction ends: the result goes to the lock's owner, then `end_transaction()` (43_relay_transaction.md R196). -/
def finish (r : Result) (s : State) : State :=
  endTransaction (completeOwner r s)

/-- Byte `i` of a frame. Past the end, where no complete frame is read (every response has at least 5 bytes, 10_state.md R20),
it reads 0: DESIGN CHOICE, safe (log entry 15). -/
def byteAt (frame : List Byte) (i : Nat) : Byte :=
  frame.getD i 0

/-- `E`, bit 7 of the function-code byte (30_encoding.md R72). -/
def exceptionBit (frame : List Byte) : Bool :=
  (byteAt frame 1).getLsbD 7

/-- Bits 6:0 of the function-code byte, widened (30_encoding.md R72, 42_relay_response.md R157). -/
def baseFunction (frame : List Byte) : Byte :=
  byteAt frame 1 &&& 0x7F

/-- The result of an exception reply (42_relay_response.md R157, R163). -/
def resultException (reqFc : Byte) (frame : List Byte) : Result :=
  if baseFunction frame = reqFc then .err (.deviceException (byteAt frame 2) (byteAt frame 1) frame)
  else .err (.protocol .functionMismatch frame)

/-- Check 5 and the result of `RSP_RD` (42_relay_response.md R159, R160). -/
def resultReadCoils (reqQty : Half) (frame : List Byte) : Result :=
  if (byteAt frame 2).toNat ≠ ceilDiv8 reqQty.toNat then .err (.protocol .byteCountMismatch frame)
  else .ok (.coils (unpack ((frame.drop 3).take (byteAt frame 2).toNat) reqQty.toNat))

/-- The result of `RSP_WR1` (42_relay_response.md R161): bytes 2..5 are not compared. -/
def resultWriteSingle : Result :=
  .ok .unit

/-- The result of `RSP_WRN` (42_relay_response.md R162): bytes 2..5 are not compared. -/
def resultWriteMultiple : Result :=
  .ok .unit

/-- The checks of `interpret()` in order, and the result of the format that `REQ_FC` picks (42_relay_response.md R154 to R163). -/
def verdict (reqAddr reqFc : Byte) (reqQty : Half) (frame : List Byte) : Result :=
  if crcValid frame = false then .err (.protocol .crcMismatch frame)
  else if byteAt frame 0 ≠ reqAddr then .err (.protocol .addressMismatch frame)
  else if exceptionBit frame then resultException reqFc frame
  else if byteAt frame 1 ≠ reqFc then .err (.protocol .functionMismatch frame)
  else if reqFc = fcReadCoils then resultReadCoils reqQty frame
  else if reqFc = fcWriteSingleCoil then resultWriteSingle
  else resultWriteMultiple

/-- `interpret()` on a complete frame, and the end of the transaction (42_relay_response.md R154). -/
def interpret (frame : List Byte) (s : State) : State :=
  finish (verdict s.reqAddr s.reqFc s.reqQty frame) s

/-- `update_expect()` under `EARLY` (42_relay_response.md R152). -/
def expectEarly (reqFc : Byte) (buf : List Byte) (expect : Option Nat) : Option Nat :=
  if buf.length = 2 ∧ exceptionBit buf = true then some 5
  else if buf.length = 3 ∧ reqFc = fcReadCoils ∧ exceptionBit buf = false then some (3 + (byteAt buf 2).toNat + 2)
  else expect

/-- `update_expect()` under `LITERAL` (42_relay_response.md R153). -/
def expectLiteral (reqFc : Byte) (buf : List Byte) (expect : Option Nat) : Option Nat :=
  if buf.length = 3 ∧ reqFc = fcReadCoils then some (3 + (byteAt buf 2).toNat + 2) else expect

/-- `update_expect()`, by `EXC_LENGTH_POLICY` (42_relay_response.md R151). -/
def updateExpect (policy : ExcLengthPolicy) (reqFc : Byte) (buf : List Byte) (expect : Option Nat) : Option Nat :=
  match policy with
  | .early => expectEarly reqFc buf expect
  | .literal => expectLiteral reqFc buf expect

/-- The first two lines of `RxByte(b)` (42_relay_response.md R151): the byte joins `RX_BUF` and `RX_EXPECT` is brought up to date. -/
def receiveByte (b : Byte) (s : State) : State :=
  { s with
    rxBuf := s.rxBuf ++ [b]
    rxExpect := updateExpect s.cfg.excLength s.reqFc (s.rxBuf ++ [b]) s.rxExpect }

/-- Whether the response is complete: `RX_EXPECT ≠ UNKNOWN` and `|RX_BUF| = RX_EXPECT` (42_relay_response.md R151). -/
def frameComplete (s : State) : Bool :=
  decide (s.rxExpect = some s.rxBuf.length)

/-- `RxByte(b)` while a response is awaited (42_relay_response.md R151). -/
def awaitByte (b : Byte) (s : State) : State :=
  let s' := receiveByte b s
  if frameComplete s' then interpret s'.rxBuf s' else s'

/-- `RxByte(b)` outside a transaction (42_relay_response.md R165). -/
def strayByte (b : Byte) (s : State) : State :=
  match s.cfg.idleRx, s.phase with
  | .keep, .idle => { s with rxPending := s.rxPending ++ [b] }
  | .keep, .awaitRsp => s
  | .keep, .disposed => s
  | .discard, _ => s

/-- Several bytes outside a transaction, in arrival order. -/
def strayBytes : List Byte → State → State
  | [], s => s
  | b :: rest, s => strayBytes rest (strayByte b s)

/-- The loop of `decoder_start()` under `KEEP`: kept bytes go to the decoder while a response is awaited, the rest go back to
the front of `RX_PENDING` (42_relay_response.md R150). -/
def feedPending : List Byte → State → State
  | [], s => s
  | b :: rest, s =>
    if s.phase = .awaitRsp then feedPending rest (awaitByte b s) else { s with rxPending := (b :: rest) ++ s.rxPending }

/-- `decoder_start()` (42_relay_response.md R150). -/
def decoderStart (s : State) : State :=
  let s' := { s with rxBuf := [], rxExpect := if s.reqFc = fcReadCoils then none else some 8, phase := .awaitRsp }
  match s.cfg.idleRx with
  | .keep => feedPending s.rxPending { s' with rxPending := [] }
  | .discard => s'

/-- `TxFrame(s)`: one event on the transmit output (43_relay_transaction.md R193). -/
def txFrame (frame : List Byte) (s : State) : State :=
  { s with txLog := s.txLog ++ [frame] }

/-- `transmit(frame)` (43_relay_transaction.md R193), with the lock taken by the current caller for command `c`. `ENV` may draw
`WRITE_TIMEOUT(j)` for j up to the frame's length; a larger number stands for that length: DESIGN CHOICE, safe (log entry 6). -/
def transmit (c : BusCommand) (frame : List Byte) (s : State) : State :=
  let s' := { s with lockOwner := some s.cur, callers := callersSet s.callers s.cur (.inflight c) }
  match s.answer.sending with
  | .sent => decoderStart (txFrame frame s')
  | .writeTimeout j =>
    let sent := min j frame.length
    finish (.err (.timeoutWrite sent)) (if 0 < sent then txFrame (frame.take sent) s' else s')

/-- A request: its frame and what 41_relay_commands.md R128 writes to the request registers for it. -/
structure Request where
  cmd : ReqCmd
  fc : Byte
  start : Half
  qty : Half
  frame : List Byte
deriving DecidableEq, Repr

/-- The write of the request registers (41_relay_commands.md R128). -/
def writeRequest (r : Request) (s : State) : State :=
  { s with reqCmd := r.cmd, reqAddr := s.cfg.deviceAddr, reqFc := r.fc, reqStart := r.start, reqQty := r.qty }

/-- Steps 3 to 7 of 41_relay_commands.md R120 for the current caller: disposed, held on the lock, open attempt
(43_relay_transaction.md R192), registers and transmission. -/
def sendRequest (c : BusCommand) (r : Request) (s : State) : State :=
  match s.phase with
  | .disposed => raise (.connection .disposed) s
  | .awaitRsp => s.setCaller s.cur (.held (.bus c))
  | .idle =>
    if s.portOpen = false ∧ s.answer.opening = .openFail then raise (.connection .openFailed) s
    else transmit c r.frame (writeRequest r { s with portOpen := true })

/-- `args_ok` and its subkind (41_relay_commands.md R121): the first condition that applies. -/
def argError : BusCommand → Option ArgSub
  | .readCoils start count =>
    if count < 1 ∨ 2000 < count then some .countRange
    else if start < 0 then some .startRange
    else if 65535 < start then some .startRange
    else none
  | .readAll => none
  | .setChannel channel _ => if channel < 1 ∨ 8 < channel then some .channelRange else none
  | .setAll states => if states.length ≠ 8 then some .statesLength else none

/-- A bus command presented by the current caller (41_relay_commands.md R120): steps 1 and 2, then the rest. -/
def presentBus (c : BusCommand) (r : Request) (s : State) : State :=
  match argError c with
  | some sub => raise (.argument sub) s
  | none => if s.cfg.enabled then sendRequest c r s else raise .configDisabled s

/-- A complete response frame at the decoder: while a response is awaited it is interpreted (42_relay_response.md R154); outside a
transaction its bytes are stray (R165). -/
def receiveFrame (frame : List Byte) (s : State) : State :=
  if s.phase = .awaitRsp then interpret frame s else strayBytes frame s

end Sys2Proof.Machine
end

