-- ==== Sys2Proof/Machine/Checksum.lean ====
section
/-! DEFINITION. The checksum unit's commands (40_checksum.md). -/

namespace Sys2Proof.Machine

/-- `CRC_COMPUTE bytes, length` (40_checksum.md R103). -/
def execCrcCompute (bytes : List Byte) (length : Int) (s : State) : Host.Outcome State Fault Refusal :=
  if length < 0 ∨ (bytes.length : Int) < length then .next (raise (.argument .badLength) s)
  else .next (complete s.cur (.ok (.crc (crc16 (bytes.take length.toNat)))) s)

/-- `CRC_VALIDATE frame` (40_checksum.md R104). -/
def execCrcValidate (frame : List Byte) (s : State) : Host.Outcome State Fault Refusal :=
  .next (complete s.cur (.ok (.bool (crcValid frame))) s)

end Sys2Proof.Machine
end

