-- ==== Sys2Proof/Machine/Commands.lean ====
section
/-! DEFINITION. The bus commands (41_relay_commands.md R122 to R125), each presented by the current caller. -/

namespace Sys2Proof.Machine

/-- `READ_COILS start, count` (41_relay_commands.md R122). -/
def execReadCoils (start count : Int) (s : State) : Host.Outcome State Fault Refusal :=
  .next (presentBus (.readCoils start count)
    { cmd := .readCoils, fc := fcReadCoils, start := narrow16 start, qty := narrow16 count,
      frame := frameReadCoils s.cfg.deviceAddr (narrow16 start) (narrow16 count) } s)

/-- `READ_ALL` (41_relay_commands.md R123, 30_encoding.md R87). -/
def execReadAll (s : State) : Host.Outcome State Fault Refusal :=
  .next (presentBus .readAll
    { cmd := .readAll, fc := fcReadCoils, start := 0, qty := 8, frame := frameReadCoils s.cfg.deviceAddr 0 8 } s)

/-- `SET_CHANNEL channel, on` (41_relay_commands.md R124). -/
def execSetChannel (channel : Int) (on : Bool) (s : State) : Host.Outcome State Fault Refusal :=
  .next (presentBus (.setChannel channel on)
    { cmd := .setChannel, fc := fcWriteSingleCoil, start := narrow16 (channel - 1), qty := 1,
      frame := frameSetChannel s.cfg.deviceAddr ((narrow16 (channel - 1)).setWidth 3) on } s)

/-- `SET_ALL states` (41_relay_commands.md R125). -/
def execSetAll (states : List Bool) (s : State) : Host.Outcome State Fault Refusal :=
  .next (presentBus (.setAll states)
    { cmd := .setAll, fc := fcWriteMultipleCoils, start := 0, qty := 8,
      frame := frameSetAll s.cfg.deviceAddr (pack states) } s)

end Sys2Proof.Machine
end

