-- ==== Sys2Proof/Machine/Disposal.lean ====
section
/-! DEFINITION. Disposal (43_relay_transaction.md R197). -/

namespace Sys2Proof.Machine

/-- `DISPOSE` by the current caller (43_relay_transaction.md R197): idempotent, held while a transaction is in flight, and it
does not read `ENABLED`. -/
def execDispose (s : State) : Host.Outcome State Fault Refusal :=
  match s.phase with
  | .disposed => .next (complete s.cur (.ok .unit) s)
  | .awaitRsp => .next (s.setCaller s.cur (.held .dispose))
  | .idle => .next (complete s.cur (.ok .unit) { s with portOpen := false, rxPending := [], phase := .disposed })

end Sys2Proof.Machine
end

