-- ==== Sys2Proof/Machine/Requests.lean ====
section
/-! DEFINITION. The request frames (30_encoding.md R73 to R75) as the block emits them: steps 3 to 7 of 41_relay_commands.md R120 for the current caller, whose arguments and whose `ENABLED` were checked when its command was presented. A held command is taken up as its request frame (43_relay_transaction.md R191). DESIGN CHOICE, safe (log entry 11). -/

namespace Sys2Proof.Machine

/-- The command that `REQ_RD` belongs to: `READ_ALL` when that is what the current caller waits with and the frame is its
frame (41_relay_commands.md R123), `READ_COILS` otherwise (R122). DEDUCED, safe (log entry 12). -/
def readCommandOf (start qty : Half) (s : State) : BusCommand × ReqCmd :=
  if s.callerOf s.cur = .held (.bus .readAll) ∧ start = 0 ∧ qty = 8 then (.readAll, .readAll)
  else (.readCoils start.toNat qty.toNat, .readCoils)

/-- `REQ_RD` (41_relay_commands.md R122, R123). -/
def execReadCoilsRequest (start qty : Half) (s : State) : Host.Outcome State Fault Refusal :=
  .next (sendRequest (readCommandOf start qty s).1
    { cmd := (readCommandOf start qty s).2, fc := fcReadCoils, start := start, qty := qty,
      frame := frameReadCoils s.cfg.deviceAddr start qty } s)

/-- `REQ_WR1` (41_relay_commands.md R124): coil address `coil` is channel `coil + 1` (20_memory.md R52). -/
def execSetChannelRequest (coil : BitVec 3) (on : Bool) (s : State) : Host.Outcome State Fault Refusal :=
  .next (sendRequest (.setChannel (coil.toNat + 1) on)
    { cmd := .setChannel, fc := fcWriteSingleCoil, start := coil.setWidth 16, qty := 1,
      frame := frameSetChannel s.cfg.deviceAddr coil on } s)

/-- `REQ_WRN` (41_relay_commands.md R125): bit i of the data byte is channel i + 1 (R126). -/
def execSetAllRequest (data : Byte) (s : State) : Host.Outcome State Fault Refusal :=
  .next (sendRequest (.setAll (unpack [data] 8))
    { cmd := .setAll, fc := fcWriteMultipleCoils, start := 0, qty := 8,
      frame := frameSetAll s.cfg.deviceAddr data } s)

end Sys2Proof.Machine
end

