-- ==== Sys2Proof/Machine/Responses.lean ====
section
/-! DEFINITION. The response frames (42_relay_response.md R160 to R163): what a complete one does. DESIGN CHOICE, safe (log entry 11). -/

namespace Sys2Proof.Machine

/-- `RSP_RD` (42_relay_response.md R160). -/
def execReadCoilsResponse (addr : Byte) (data : List Byte) (s : State) : Host.Outcome State Fault Refusal :=
  .next (receiveFrame (frameReadResponse addr data) s)

/-- `RSP_WR1` (42_relay_response.md R161). -/
def execWriteSingleCoilResponse (addr b2 b3 b4 b5 : Byte) (s : State) : Host.Outcome State Fault Refusal :=
  .next (receiveFrame (frameWriteSingleResponse addr b2 b3 b4 b5) s)

/-- `RSP_WRN` (42_relay_response.md R162). -/
def execWriteMultipleCoilsResponse (addr b2 b3 b4 b5 : Byte) (s : State) : Host.Outcome State Fault Refusal :=
  .next (receiveFrame (frameWriteMultipleResponse addr b2 b3 b4 b5) s)

/-- `RSP_EXC` (42_relay_response.md R163). -/
def execExceptionResponse (addr : Byte) (fc : BitVec 7) (code : Byte) (extra : List Byte) (s : State) : Host.Outcome State Fault Refusal :=
  .next (receiveFrame (frameException addr fc code extra) s)

end Sys2Proof.Machine
end

