-- ==== Sys2Proof/Machine/Dispatch.lean ====
section
/-! DEFINITION. The dispatch: one arm per constructor of `Instr`, each one call of its meaning. -/

namespace Sys2Proof.Machine

def exec (i : Instr) (s : State) : Host.Outcome State Fault Refusal :=
  match i with
  | .readCoilsRequest start qty => Sys2Proof.Machine.execReadCoilsRequest start qty s
  | .setChannelRequest coil on => Sys2Proof.Machine.execSetChannelRequest coil on s
  | .setAllRequest data => Sys2Proof.Machine.execSetAllRequest data s
  | .readCoilsResponse addr data => Sys2Proof.Machine.execReadCoilsResponse addr data s
  | .writeSingleCoilResponse addr b2 b3 b4 b5 => Sys2Proof.Machine.execWriteSingleCoilResponse addr b2 b3 b4 b5 s
  | .writeMultipleCoilsResponse addr b2 b3 b4 b5 => Sys2Proof.Machine.execWriteMultipleCoilsResponse addr b2 b3 b4 b5 s
  | .exceptionResponse addr fc code extra => Sys2Proof.Machine.execExceptionResponse addr fc code extra s
  | .crcCompute bytes length => Sys2Proof.Machine.execCrcCompute bytes length s
  | .crcValidate frame => Sys2Proof.Machine.execCrcValidate frame s
  | .readCoils start count => Sys2Proof.Machine.execReadCoils start count s
  | .readAll => Sys2Proof.Machine.execReadAll s
  | .setChannel channel on => Sys2Proof.Machine.execSetChannel channel on s
  | .setAll states => Sys2Proof.Machine.execSetAll states s
  | .dispose => Sys2Proof.Machine.execDispose s

end Sys2Proof.Machine
end

