-- ==== Sys2Proof/Machine/Events.lean ====
section
/-! DEFINITION. What the block does at each event of its environment (43_relay_transaction.md R191, R194, R195, R199), and how an instruction of the opcode table comes to be the next one. -/

namespace Sys2Proof.Machine

/-- The instruction a command record stands for. -/
def commandInstr : Command → Instr
  | .crcCompute bytes length => .crcCompute bytes length
  | .crcValidate frame => .crcValidate frame
  | .bus (.readCoils start count) => .readCoils start count
  | .bus .readAll => .readAll
  | .bus (.setChannel channel on) => .setChannel channel on
  | .bus (.setAll states) => .setAll states
  | .dispose => .dispose

/-- The instruction a held command resumes as (43_relay_transaction.md R191): a bus command goes on at step 3 of
41_relay_commands.md R120, as its request frame; `DISPOSE` goes on at 43_relay_transaction.md R197. -/
def resumeInstr : HeldCommand → Instr
  | .bus (.readCoils start count) => .readCoilsRequest (narrow16 start) (narrow16 count)
  | .bus .readAll => .readCoilsRequest 0 8
  | .bus (.setChannel channel on) => .setChannelRequest ((narrow16 (channel - 1)).setWidth 3) on
  | .bus (.setAll states) => .setAllRequest (pack states)
  | .dispose => .dispose

/-- The block turns to caller `k`, with the outcomes `ENV` will draw for it. -/
def serve (k : CallerId) (ans : EnvAnswer) (s : State) : State :=
  { s with cur := k, answer := ans }

/-- A complete response frame in `RX_BUF`: its instruction runs; a frame that is no response to the request in flight goes
through the same checks (42_relay_response.md R154 to R159). -/
def runFrame (s : State) : Host.Outcome State Fault Refusal :=
  match decodeResponse s.reqFc s.rxBuf with
  | .ok i => exec i s
  | .error _ => .next (interpret s.rxBuf s)

/-- The event `RxByte(b)` (42_relay_response.md R151, R165). -/
def runByte (b : Byte) (s : State) : Host.Outcome State Fault Refusal :=
  if s.phase = .awaitRsp then
    if frameComplete (receiveByte b s) then runFrame (receiveByte b s) else .next (receiveByte b s)
  else .next (strayByte b s)

/-- The event `TIMEOUT` (43_relay_transaction.md R194). -/
def timeoutEvent (s : State) : State :=
  if s.phase = .awaitRsp then finish (.err (.timeoutRead s.rxBuf.length)) s else s

/-- The event `IO_FAULT` (43_relay_transaction.md R195). -/
def ioFaultEvent (s : State) : State :=
  if s.phase = .awaitRsp then finish (.err (.connection .ioFault)) s else s

/-- Caller `k` presents `c`. A caller with a command outstanding may present no second one (10_state.md R32, 93 U21). -/
def runPresent (k : CallerId) (c : Command) (ans : EnvAnswer) (s : State) : Host.Outcome State Fault Refusal :=
  if s.callerOf k = .free then exec (commandInstr c) (serve k ans s) else .refused .callerBusy

/-- The held caller `k` is taken up (43_relay_transaction.md R191). A caller that is not held has nothing to take up, and the
block goes on: DESIGN CHOICE, safe (log entry 10). -/
def runTakeUp (k : CallerId) (ans : EnvAnswer) (s : State) : Host.Outcome State Fault Refusal :=
  match s.callerOf k with
  | .held h => exec (resumeInstr h) (serve k ans s)
  | .free => .next s
  | .inflight _ => .next s

/-- One event. -/
def runEvent (e : Event) (s : State) : Host.Outcome State Fault Refusal :=
  match e with
  | .present k c ans => runPresent k c ans s
  | .takeUp k ans => runTakeUp k ans s
  | .rxByte b => runByte b s
  | .timeout => .next (timeoutEvent s)
  | .ioFault => .next (ioFaultEvent s)

/-- One step: the next event of the schedule. With no event to come the block waits as it is (70_reset_and_hazards.md R252,
93_implementation_defined.md U8). -/
def runNext (s : State) : Host.Outcome State Fault Refusal :=
  match s.inputs with
  | [] => .next s
  | e :: rest => runEvent e { s with inputs := rest }

/-- The request a response answers: `REQ_CMD` by function code. -/
def answeredCommand (reqFc : Byte) : BusCommand × ReqCmd :=
  if reqFc = fcWriteSingleCoil then (.setChannel 1 true, .setChannel)
  else if reqFc = fcWriteMultipleCoils then (.setAll (List.replicate numChannels false), .setAll)
  else (.readAll, .readAll)

/-- A transaction in flight for caller 0 in which all of a response frame but its last byte has arrived, and the last byte
is the next event. -/
def placeResponse (reqFc : Byte) (frame : List Byte) (s : State) : State :=
  { s with
    phase := .awaitRsp
    lockOwner := some 0
    portOpen := true
    reqCmd := (answeredCommand reqFc).2
    reqAddr := byteAt frame 0
    reqFc := reqFc
    reqStart := 0
    reqQty := 8
    rxBuf := frame.take (frame.length - 1)
    rxExpect := some frame.length
    callers := callersSet s.callers 0 (.inflight (answeredCommand reqFc).1)
    inputs := .rxByte (byteAt frame (frame.length - 1)) :: s.inputs }

/-- Caller 0 held on the lock with a bus command, and its taking up is the next event. -/
def placeRequest (c : BusCommand) (s : State) : State :=
  { s with
    callers := callersSet s.callers 0 (.held (.bus c))
    inputs := .takeUp 0 ⟨.openOk, .sent⟩ :: s.inputs }

/-- Caller 0 free, and its presenting a command is the next event. -/
def placeCommand (c : Command) (s : State) : State :=
  { s with callers := callersSet s.callers 0 .free, inputs := .present 0 c ⟨.openOk, .sent⟩ :: s.inputs }

/-- `s` made such that the very next step runs `i`: a command is presented, a request frame is what a held caller resumes
as, a response frame is completed by its last byte (log entry 14). -/
def placeInstr (i : Instr) (s : State) : State :=
  match i with
  | .readCoilsRequest start qty => placeRequest (.readCoils start.toNat qty.toNat) s
  | .setChannelRequest coil on => placeRequest (.setChannel (coil.toNat + 1) on) s
  | .setAllRequest data => placeRequest (.setAll (unpack [data] 8)) s
  | .readCoilsResponse addr data => placeResponse fcReadCoils (frameReadResponse addr data) s
  | .writeSingleCoilResponse addr b2 b3 b4 b5 => placeResponse fcWriteSingleCoil (frameWriteSingleResponse addr b2 b3 b4 b5) s
  | .writeMultipleCoilsResponse addr b2 b3 b4 b5 => placeResponse fcWriteMultipleCoils (frameWriteMultipleResponse addr b2 b3 b4 b5) s
  | .exceptionResponse addr fc code extra => placeResponse (fc.setWidth 8) (frameException addr fc code extra) s
  | .crcCompute bytes length => placeCommand (.crcCompute bytes length) s
  | .crcValidate frame => placeCommand (.crcValidate frame) s
  | .readCoils start count => placeCommand (.bus (.readCoils start count)) s
  | .readAll => placeCommand (.bus .readAll) s
  | .setChannel channel on => placeCommand (.bus (.setChannel channel on)) s
  | .setAll states => placeCommand (.bus (.setAll states)) s
  | .dispose => placeCommand .dispose s

end Sys2Proof.Machine
end

