-- ==== Sys2Proof/Machine/Step.lean ====
section
/-! DEFINITION. One step of the machine, and the placing of an instruction of the opcode table as the next one. -/

namespace Sys2Proof.Machine

/-- One step: the next event of the schedule (43_relay_transaction.md R199, 60_exceptions.md R225). -/
def step (s : State) : Host.Outcome State Fault Refusal :=
  runNext s

/-- `s` with the instruction of a word of spec/opcode_table.json as the next one; unchanged where the word is none. -/
def State.withFetchWord (s : State) (nbits w : Nat) : State :=
  match decodeTableWord nbits w with
  | some i => placeInstr i s
  | none => s

end Sys2Proof.Machine
end

