-- ==== Sys2Proof/Machine/Flags.lean ====
section
/-! DEFINITION. The block sets no condition codes (10_state.md R35). Its derived status outputs, and the numeric codes and classes of its results (60_exceptions.md R220, R221). -/

namespace Sys2Proof.Machine

/-- The status output `BUSY` (10_state.md R35). -/
def State.busy (s : State) : Bool :=
  decide (s.phase = .awaitRsp)

/-- The status output `DISPOSED_OUT` (10_state.md R35). -/
def State.disposedOut (s : State) : Bool :=
  decide (s.phase = .disposed)

/-- The error kinds (60_exceptions.md R220). -/
inductive ErrorKind where
  | argumentError
  | timeout
  | protocolError
  | connectionError
  | configError
deriving DecidableEq, Repr

/-- The kind of an error. -/
def errorKind : BusError → ErrorKind
  | .argument _ => .argumentError
  | .timeoutRead _ => .timeout
  | .timeoutWrite _ => .timeout
  | .protocol _ _ => .protocolError
  | .deviceException _ _ _ => .protocolError
  | .connection _ => .connectionError
  | .configDisabled => .configError

/-- The numeric code of a kind (60_exceptions.md R220). -/
def kindCode : ErrorKind → Nat
  | .argumentError => 1
  | .timeout => 2
  | .protocolError => 3
  | .connectionError => 4
  | .configError => 5

/-- The numeric code of a result; `Ok` has code 0 (60_exceptions.md R220). -/
def resultCode : Result → Nat
  | .ok _ => 0
  | .err e => kindCode (errorKind e)

/-- The numeric subcode of an error (60_exceptions.md R221). -/
def errorSubcode : BusError → Nat
  | .argument .countRange => 1
  | .argument .startRange => 2
  | .argument .channelRange => 3
  | .argument .statesLength => 4
  | .argument .badLength => 5
  | .timeoutRead _ => 1
  | .timeoutWrite _ => 2
  | .protocol .crcMismatch _ => 1
  | .protocol .addressMismatch _ => 2
  | .protocol .functionMismatch _ => 3
  | .protocol .byteCountMismatch _ => 4
  | .deviceException _ _ _ => 5
  | .connection .openFailed => 1
  | .connection .disposed => 2
  | .connection .ioFault => 3
  | .configDisabled => 1

/-- Whether a caller may sensibly present the same command again (60_exceptions.md R220, R229). -/
def retryable : ErrorKind → Bool
  | .argumentError => false
  | .timeout => true
  | .protocolError => false
  | .connectionError => true
  | .configError => false

end Sys2Proof.Machine
end

