-- ==== Sys2Proof/WellFormed.lean ====
section
/-! DEFINITION. Which instructions are well formed: the operand ranges that the frame formats set (30_encoding.md R73 to R78). Every command can be presented with any operands (00_scope.md R10), so every command is well formed. -/

namespace Sys2Proof

/-- Well-formedness of an instruction. `REQ_RD` carries a count 1..2000 (30_encoding.md R73, 41_relay_commands.md R121);
`BC` is one byte (R77); an exception frame has no byte between code and CRC, or three (8 bytes in all), or as many as its
code (42_relay_response.md R163). -/
def Instr.wf : Instr → Bool
  | .readCoilsRequest _ qty => decide (1 ≤ qty.toNat) && decide (qty.toNat ≤ maxReadCount)
  | .setChannelRequest _ _ => true
  | .setAllRequest _ => true
  | .readCoilsResponse _ data => decide (data.length ≤ 255)
  | .writeSingleCoilResponse _ _ _ _ _ => true
  | .writeMultipleCoilsResponse _ _ _ _ _ => true
  | .exceptionResponse _ _ code extra =>
      decide (extra.length = 0) || decide (extra.length = 3) || decide (extra.length = code.toNat)
  | .crcCompute _ _ => true
  | .crcValidate _ => true
  | .readCoils _ _ => true
  | .readAll => true
  | .setChannel _ _ => true
  | .setAll _ => true
  | .dispose => true

end Sys2Proof
end

