-- ==== Sys2Proof/Safety.lean ====
section
/-! DEFINITION. The terms claims are made in: the invariant of the block, what a run observes and when it ends (43_relay_transaction.md R200), the ended transaction (R196), and infinite runs with the two named fairness premises (R191, R194). -/

namespace Sys2Proof.Safety

open Machine

/-- The total length of a response as `REQ_FC` and the bytes received so far determine it (30_encoding.md R82,
42_relay_response.md R150, R152, R153); `none` while it is unknown. -/
def responseLength (policy : ExcLengthPolicy) (reqFc : Byte) (buf : List Byte) : Option Nat :=
  if policy = .early ∧ 2 ≤ buf.length ∧ exceptionBit buf = true then some 5
  else if reqFc = fcReadCoils then (if 3 ≤ buf.length then some (3 + (byteAt buf 2).toNat + 2) else none)
  else some 8

/-- The request registers describe command `c` (41_relay_commands.md R128), whose arguments are legal (R121). -/
def RequestFor (s : State) (c : BusCommand) : Prop :=
  argError c = none ∧ s.reqAddr = s.cfg.deviceAddr ∧
    match c with
    | .readCoils start count =>
      s.reqCmd = .readCoils ∧ s.reqFc = 0x01 ∧ (s.reqStart.toNat : Int) = start ∧ (s.reqQty.toNat : Int) = count
    | .readAll => s.reqCmd = .readAll ∧ s.reqFc = 0x01 ∧ s.reqStart = 0 ∧ s.reqQty = 8
    | .setChannel channel _ =>
      s.reqCmd = .setChannel ∧ s.reqFc = 0x05 ∧ (s.reqStart.toNat : Int) = channel - 1 ∧ s.reqQty = 1
    | .setAll _ => s.reqCmd = .setAll ∧ s.reqFc = 0x0F ∧ s.reqStart = 0 ∧ s.reqQty = 8

/-- The invariant of the block. -/
structure Inv (s : State) : Prop where
  /-- The table of callers is canonical. -/
  callersCanonical : callersWf s.callers = true
  /-- `LOCK_OWNER ≠ NONE` exactly when `PHASE = AWAIT_RSP` (10_state.md R23). -/
  lockedIffAwaiting : s.lockOwner.isSome = true ↔ s.phase = .awaitRsp
  /-- The lock's owner is in flight, and the request registers describe its command (10_state.md R25, R32). -/
  ownerInflight : ∀ k, s.lockOwner = some k → ∃ c, s.callerOf k = .inflight c ∧ RequestFor s c
  /-- Only the lock's owner is in flight (10_state.md R32). -/
  inflightOwner : ∀ k c, s.callerOf k = .inflight c → s.lockOwner = some k
  /-- A bus command goes in flight only under `ENABLED` (41_relay_commands.md R120 step 2). -/
  inflightEnabled : ∀ k c, s.callerOf k = .inflight c → s.cfg.enabled = true
  /-- A held bus command has passed steps 1 and 2 of 41_relay_commands.md R120. -/
  heldChecked : ∀ k c, s.callerOf k = .held (.bus c) → argError c = none ∧ s.cfg.enabled = true
  /-- Outside a transaction the decoder holds nothing (43_relay_transaction.md R196). -/
  decoderEmpty : s.phase ≠ .awaitRsp → s.rxBuf = [] ∧ s.rxExpect = none
  /-- `RX_EXPECT` is what the bytes received so far determine (42_relay_response.md R150 to R153). -/
  expectExact : s.phase = .awaitRsp → s.rxExpect = responseLength s.cfg.excLength s.reqFc s.rxBuf
  /-- The response is not complete yet: a complete one ends the transaction at once (42_relay_response.md R151). -/
  notComplete : ∀ n, s.rxExpect = some n → s.rxBuf.length < n
  /-- A transaction runs over an open port (43_relay_transaction.md R192). -/
  portOpenAwaiting : s.phase = .awaitRsp → s.portOpen = true
  /-- Disposal has closed the port (43_relay_transaction.md R197). -/
  portClosedDisposed : s.phase = .disposed → s.portOpen = false
  /-- Bytes are kept between transactions only under `KEEP`, and not after disposal (10_state.md R30, 43 R197). -/
  pendingKept : s.rxPending ≠ [] → s.cfg.idleRx = .keep ∧ s.phase ≠ .disposed

/-- `s` after its transaction has ended with result `r` for caller `k` (43_relay_transaction.md R196): the result is
delivered, the decoder is empty, the lock is free, and nothing else has changed. -/
def ended (k : CallerId) (r : Result) (s : State) : State :=
  { s with
    results := s.results ++ [(k, r)]
    callers := callersSet s.callers k .free
    rxBuf := []
    rxExpect := none
    lockOwner := none
    phase := .idle }

/-- `s` after result `r` has gone to caller `k`, and nothing else has changed. -/
def answered (k : CallerId) (r : Result) (s : State) : State :=
  { s with results := s.results ++ [(k, r)], callers := callersSet s.callers k .free }

/-- The command instruction of a bus command. -/
def busInstr (c : BusCommand) : Instr :=
  commandInstr (.bus c)

/-- The arguments of a bus command are in range (41_relay_commands.md R121). -/
def legalArgs : BusCommand → Prop
  | .readCoils start count => 1 ≤ count ∧ count ≤ 2000 ∧ 0 ≤ start ∧ start ≤ 65535
  | .readAll => True
  | .setChannel channel _ => 1 ≤ channel ∧ channel ≤ 8
  | .setAll states => states.length = 8

/-- Nothing stands between the current caller and a whole transmission: the block is idle, the port is open or opens, the frame
is sent, and no kept byte waits (41_relay_commands.md R120 steps 4 to 7, 43_relay_transaction.md R192, R193). -/
def clearToSend (s : State) : Prop :=
  s.phase = .idle ∧ (s.portOpen = true ∨ s.answer.opening = .openOk) ∧ s.answer.sending = .sent ∧
    (s.cfg.idleRx = .discard ∨ s.rxPending = [])

/-- `s` with the request registers written (41_relay_commands.md R128). -/
def withRequest (cmd : ReqCmd) (fc : Byte) (start qty : Half) (s : State) : State :=
  { s with reqCmd := cmd, reqAddr := s.cfg.deviceAddr, reqFc := fc, reqStart := start, reqQty := qty }

/-- `s` after the current caller's command `c` has been accepted and `frame` sent whole: the port is open, the lock taken,
the decoder empty and waiting for 8 bytes, or for a header after function code 0x01; nothing else has changed. -/
def awaiting (c : BusCommand) (fc : Byte) (frame : List Byte) (s : State) : State :=
  { s with
    portOpen := true
    lockOwner := some s.cur
    callers := callersSet s.callers s.cur (.inflight c)
    txLog := s.txLog ++ [frame]
    rxBuf := []
    rxExpect := if fc = 0x01 then none else some 8
    phase := .awaitRsp }

/-- A body with its CRC, low byte first (20_memory.md R54). -/
def sealed (body : List Byte) : List Byte :=
  body ++ [(crc16 body).setWidth 8, (crc16 body >>> 8).setWidth 8]

/-- A frame with its bit `i` flipped, bit 0 being the least significant bit of byte 0. -/
def flipBit (frame : List Byte) (i : Nat) : List Byte :=
  frame.set (i / 8) (frame.getD (i / 8) 0 ^^^ (1 <<< (i % 8)))

/-- The bits of a byte sequence in the order they enter the CRC: each byte least significant bit first (40_checksum.md R100). -/
def bitsOf (bytes : List Byte) : List Bool :=
  bytes.flatMap fun b => (List.range 8).map b.getLsbD

/-- One bit entering the reflected CRC register (40_checksum.md R100). -/
def crcBitIn (c : Half) (bit : Bool) : Half :=
  if c.getLsbD 0 ^^ bit then (c >>> 1) ^^^ 0xA001 else c >>> 1

/-- A frame the encoder emits whole (30_encoding.md R71, R73 to R75, R80): the block's address, one of the three function codes,
8 bytes or, for 0x0F, 10, and the CRC. -/
def requestShape (addr : Byte) (frame : List Byte) : Prop :=
  ∃ body, frame = sealed body ∧ body.getD 0 0 = addr ∧
    (body.length = 6 ∧ (body.getD 1 0 = 0x01 ∨ body.getD 1 0 = 0x05) ∨ body.length = 8 ∧ body.getD 1 0 = 0x0F)

/-- The address byte of a response frame instruction. -/
def responseAddress : Instr → Option Byte
  | .readCoilsResponse addr _ => some addr
  | .writeSingleCoilResponse addr _ _ _ _ => some addr
  | .writeMultipleCoilsResponse addr _ _ _ _ => some addr
  | .exceptionResponse addr _ _ _ => some addr
  | .readCoilsRequest _ _ => none
  | .setChannelRequest _ _ => none
  | .setAllRequest _ => none
  | .crcCompute _ _ => none
  | .crcValidate _ => none
  | .readCoils _ _ => none
  | .readAll => none
  | .setChannel _ _ => none
  | .setAll _ => none
  | .dispose => none

/-- The request frame instructions. -/
def isRequest : Instr → Bool
  | .readCoilsRequest _ _ => true
  | .setChannelRequest _ _ => true
  | .setAllRequest _ => true
  | .readCoilsResponse _ _ => false
  | .writeSingleCoilResponse _ _ _ _ _ => false
  | .writeMultipleCoilsResponse _ _ _ _ _ => false
  | .exceptionResponse _ _ _ _ => false
  | .crcCompute _ _ => false
  | .crcValidate _ => false
  | .readCoils _ _ => false
  | .readAll => false
  | .setChannel _ _ => false
  | .setAll _ => false
  | .dispose => false

/-- A response frame instruction answers a request with function code `reqFc`: its format is that code's, or it is an
exception reply (30_encoding.md R79). -/
def answersRequest (reqFc : Byte) : Instr → Prop
  | .readCoilsResponse _ _ => reqFc = 0x01
  | .writeSingleCoilResponse _ _ _ _ _ => reqFc = 0x05
  | .writeMultipleCoilsResponse _ _ _ _ _ => reqFc = 0x0F
  | .exceptionResponse _ _ _ _ => True
  | .readCoilsRequest _ _ => False
  | .setChannelRequest _ _ => False
  | .setAllRequest _ => False
  | .crcCompute _ _ => False
  | .crcValidate _ => False
  | .readCoils _ _ => False
  | .readAll => False
  | .setChannel _ _ => False
  | .setAll _ => False
  | .dispose => False

/-- The decoder has just been started for the request in flight (42_relay_response.md R150). -/
def decoderStarted (s : State) : Prop :=
  s.phase = .awaitRsp ∧ s.rxBuf = [] ∧ s.rxExpect = if s.reqFc = 0x01 then none else some 8

/-- Caller `k` presents a command in the next step. -/
def presents (s : State) (k : CallerId) : Prop :=
  ∃ c ans rest, s.inputs = .present k c ans :: rest

/-- The command of caller `k` that the next step can answer: the one it presents, or the one it waits with. -/
def outstanding (s : State) (k : CallerId) (c : Command) : Prop :=
  (∃ ans rest, s.inputs = .present k c ans :: rest) ∨
    match c with
    | .bus b => s.callerOf k = .held (.bus b) ∨ s.callerOf k = .inflight b
    | .dispose => s.callerOf k = .held .dispose
    | .crcCompute _ _ => False
    | .crcValidate _ => False

/-- The errors a bus command can complete with, but for its own column of `ArgumentError` and of `BYTE_COUNT_MISMATCH`
(60_exceptions.md R223). -/
def busErrorAllowed (argument : ArgSub → Bool) (byteCount : Bool) : BusError → Bool
  | .argument sub => argument sub
  | .timeoutRead _ => true
  | .timeoutWrite _ => true
  | .protocol .crcMismatch _ => true
  | .protocol .addressMismatch _ => true
  | .protocol .functionMismatch _ => true
  | .protocol .byteCountMismatch _ => byteCount
  | .deviceException _ _ _ => true
  | .connection _ => true
  | .configDisabled => true

/-- The results a command can complete with: the errors of the matrix (60_exceptions.md R223) with the subkinds of R221, and
the success result of its tag (30_encoding.md R83). -/
def resultAllowed : Command → Result → Bool
  | .crcCompute _ _, .ok (.crc _) => true
  | .crcCompute _ _, .err (.argument .badLength) => true
  | .crcValidate _, .ok (.bool _) => true
  | .bus (.readCoils _ count), .ok (.coils c) => decide ((c.length : Int) = count)
  | .bus (.readCoils _ _), .err e => busErrorAllowed (fun a => a == .countRange || a == .startRange) true e
  | .bus .readAll, .ok (.coils c) => decide (c.length = 8)
  | .bus .readAll, .err e => busErrorAllowed (fun _ => false) true e
  | .bus (.setChannel _ _), .ok .unit => true
  | .bus (.setChannel _ _), .err e => busErrorAllowed (fun a => a == .channelRange) false e
  | .bus (.setAll _), .ok .unit => true
  | .bus (.setAll _), .err e => busErrorAllowed (fun a => a == .statesLength) false e
  | .dispose, .ok .unit => true
  | _, _ => false

/-- Two states that differ at most in the request registers, and not even there while a response is awaited (10_state.md R39). -/
def sameButRequest (s s' : State) : Prop :=
  s' = { s with reqCmd := s'.reqCmd, reqAddr := s'.reqAddr, reqFc := s'.reqFc, reqStart := s'.reqStart, reqQty := s'.reqQty } ∧
    (s.phase = .awaitRsp → s' = s)

/-- Two outcomes of a step that an observer of everything but idle request registers cannot tell apart. -/
def sameOutcome : Host.Outcome State Fault Refusal → Host.Outcome State Fault Refusal → Prop
  | .next t, .next t' => sameButRequest t t'
  | .refused r, .refused r' => r = r'
  | _, _ => False

/-- What a run observes (43_relay_transaction.md R200). -/
structure Observation where
  results : List (CallerId × Result)
  tx : List (List Byte)
  phase : Phase
  portOpen : Bool
  /-- Observed under `KEEP` only; empty under `DISCARD`. -/
  pending : List Byte
deriving DecidableEq, Repr

/-- The observation of a run that ends in `s`. -/
def observe (s : State) : Observation where
  results := s.results
  tx := s.txLog
  phase := s.phase
  portOpen := s.portOpen
  pending := match s.cfg.idleRx with
    | .keep => s.rxPending
    | .discard => []

/-- A run is at its end: every caller is `FREE` and no response is awaited (43_relay_transaction.md R200). -/
def quiescent (s : State) : Prop :=
  (∀ k, s.callerOf k = .free) ∧ s.phase ≠ .awaitRsp

/-- Some steps in a row, up to the first that is refused. -/
def runSteps : Nat → State → Host.Outcome State Fault Refusal
  | 0, s => .next s
  | n + 1, s =>
    match step s with
    | .next t => runSteps n t
    | .fault r => .fault r
    | .refused r => .refused r

/-- An event reaches the block from outside: it joins the end of the schedule. -/
def arrive (e : Event) (s : State) : State :=
  { s with inputs := s.inputs ++ [e] }

/-- An infinite run: the block steps or an event arrives. -/
def Run (tr : Nat → State) : Prop :=
  ∀ n, step (tr n) = .next (tr (n + 1)) ∨ ∃ e, tr (n + 1) = arrive e (tr n)

/-- `TIMEOUT_FAIRNESS` (43_relay_transaction.md R194): no transaction stays in `AWAIT_RSP` for ever. Its form as a predicate on
runs: log entry 19. -/
def TimeoutFairness (tr : Nat → State) : Prop :=
  ∀ n, (tr n).phase = .awaitRsp → ∃ m, n ≤ m ∧ (tr m).phase ≠ .awaitRsp

/-- Caller `k` is held in `s`. -/
def isHeld (s : State) (k : CallerId) : Prop :=
  ∃ h, s.callerOf k = .held h

/-- `LOCK_FAIRNESS` (43_relay_transaction.md R191): a caller held while the lock is released infinitely often is eventually
taken up. R191 does not say whether that counts release events or the lock's being free: here `PHASE ≠ AWAIT_RSP` infinitely
often, so that a lock that stays free for ever counts. DESIGN CHOICE, unsafe (log entry 19). -/
def LockFairness (tr : Nat → State) : Prop :=
  ∀ n k, isHeld (tr n) k → (∀ m, n ≤ m → ∃ m', m ≤ m' ∧ (tr m').phase ≠ .awaitRsp) → ∃ m, n ≤ m ∧ ¬ isHeld (tr m) k

end Sys2Proof.Safety
end

