-- ==== Sys2Proof/Certificates/Slice0/Obligations.lean ====
section
/-! DEFINITION. The statements for the provers, from the numbered rules of spec/. -/

open Sys2Proof Sys2Proof.Machine Sys2Proof.Safety

/-! ### The checksum unit -/

/-- R100: the CRC is the bit-serial reflected one: every bit enters least significant first, the register shifts right, the
constant is 0xA001, the start is 0xFFFF and nothing is XORed at the end. -/
def Obligations.CrcIsReflectedBitSerial : Prop :=
  ∀ bytes : List Byte, crc16 bytes = (bitsOf bytes).foldl crcBitIn 0xFFFF

/-- R101: `crc16` byte by byte, `crc_step` as eight conditional shifts, the value on the empty sequence and the check value,
which is the spec's own evaluation of the rule. -/
def Obligations.CrcFollowsPseudocode : Prop :=
  let turn : Half → Half := fun c => if c.getLsbD 0 then (c >>> 1) ^^^ 0xA001 else c >>> 1
  (∀ (c : Half) (b : Byte),
    crcStep c b = turn (turn (turn (turn (turn (turn (turn (turn (c ^^^ b.setWidth 16))))))))) ∧
  crc16 [] = 0xFFFF ∧
  (∀ (bytes : List Byte) (b : Byte), crc16 (bytes ++ [b]) = crcStep (crc16 bytes) b) ∧
  crc16 [0x31, 0x32, 0x33, 0x34, 0x35, 0x36, 0x37, 0x38, 0x39] = 0x4B37

/-- R106 laws (1) and (2), the source's testable properties: `CRC_VALIDATE append_crc(b)` gives `true`, and one flipped bit
anywhere in that frame is always detected. -/
def Obligations.AppendedCrcValidatesAndFlipsAreDetected : Prop :=
  ∀ (b : List Byte) (s : State),
    exec (.crcValidate (appendCrc b)) s = .next (answered s.cur (.ok (.bool true)) s) ∧
    ∀ i : Nat, i < 8 * (appendCrc b).length →
      exec (.crcValidate (flipBit (appendCrc b) i)) s = .next (answered s.cur (.ok (.bool false)) s)

/-- R106 laws (3) and (4), the spec's own inferences from R101: the CRC of a whole frame is 0, and the CRC of a concatenation goes on from the CRC of its first part. -/
def Obligations.CrcOfFrameAndOfConcatenation : Prop :=
  (∀ b : List Byte, crc16 (appendCrc b) = 0) ∧ ∀ a b : List Byte, crc16 (a ++ b) = b.foldl crcStep (crc16 a)

/-- R106 law (5), the spec's own inference from R101: `crc_step` is a bijection for each byte, and bodies that differ in one byte have different CRCs. -/
def Obligations.CrcSeparatesOneByte : Prop :=
  (∀ b : Byte, Function.Bijective fun c : Half => crcStep c b) ∧
  ∀ (a z : List Byte) (x y : Byte), x ≠ y → crc16 (a ++ x :: z) ≠ crc16 (a ++ y :: z)

/-- R103: `CRC_COMPUTE` in every state: the CRC of the prefix, or `BAD_LENGTH`; no register is written. -/
def Obligations.CrcComputeResult : Prop :=
  (∀ (bytes : List Byte) (length : Int) (s : State),
    exec (.crcCompute bytes length) s =
      .next (answered s.cur
        (if 0 ≤ length ∧ length ≤ bytes.length then .ok (.crc (crc16 (bytes.take length.toNat))) else .err (.argument .badLength)) s)) ∧
  (∀ (bytes : List Byte) (s : State), exec (.crcCompute bytes 0) s = .next (answered s.cur (.ok (.crc 0xFFFF)) s)) ∧
  crc16 [0x01, 0x05, 0x00, 0x00, 0xFF, 0x00] = 0x3A8C

/-- R104: `CRC_VALIDATE` in every state: the trailing two bytes, low byte first, against the CRC of the rest. -/
def Obligations.CrcValidateResult : Prop :=
  ∀ (frame : List Byte) (s : State),
    exec (.crcValidate frame) s =
      .next (answered s.cur (.ok (.bool (decide (2 ≤ frame.length ∧
        crc16 (frame.take (frame.length - 2)) =
          (frame.getD (frame.length - 2) 0).setWidth 16 ||| ((frame.getD (frame.length - 1) 0).setWidth 16 <<< 8))))) s)

/-- R105: a presented checksum command is answered in the same step, with a result that no part of the state decides, and
changes no register, in every phase and under every configuration. -/
def Obligations.ChecksumCommandsArePure : Prop :=
  ∀ c : Command, (∃ bytes length, c = .crcCompute bytes length) ∨ (∃ frame, c = .crcValidate frame) →
    ∃ r : Result, ∀ (s : State) (k : CallerId) (ans : EnvAnswer) (rest : List Event),
      callersWf s.callers = true → s.callerOf k = .free → s.inputs = .present k c ans :: rest →
        step s = .next { s with inputs := rest, cur := k, answer := ans, results := s.results ++ [(k, r)] }

/-! ### Bus commands: the gate -/

/-- R121: every argument error, in every state: the subkind of the first condition that applies, and no other change. A bus
command with legal arguments never completes with an argument error; nor does `READ_COILS` for a request that runs past
coil 65535. -/
def Obligations.ArgumentsAreChecked : Prop :=
  ∀ s : State,
    (∀ start count : Int, count < 1 ∨ 2000 < count →
      exec (.readCoils start count) s = .next (answered s.cur (.err (.argument .countRange)) s)) ∧
    (∀ start count : Int, 1 ≤ count → count ≤ 2000 → start < 0 ∨ 65535 < start →
      exec (.readCoils start count) s = .next (answered s.cur (.err (.argument .startRange)) s)) ∧
    (∀ (channel : Int) (on : Bool), channel < 1 ∨ 8 < channel →
      exec (.setChannel channel on) s = .next (answered s.cur (.err (.argument .channelRange)) s)) ∧
    (∀ states : List Bool, states.length ≠ 8 →
      exec (.setAll states) s = .next (answered s.cur (.err (.argument .statesLength)) s)) ∧
    ∀ c : BusCommand, legalArgs c →
      ∃ t, exec (busInstr c) s = .next t ∧
        ∀ k sub, (k, Result.err (.argument sub)) ∈ t.results → (k, Result.err (.argument sub)) ∈ s.results

/-- R120 step 2: under `ENABLED = false` a bus command with legal arguments gives `ConfigError(DISABLED)` and does nothing else. -/
def Obligations.DisabledGivesConfigError : Prop :=
  ∀ (c : BusCommand) (s : State), legalArgs c → s.cfg.enabled = false →
    exec (busInstr c) s = .next (answered s.cur (.err .configDisabled) s)

/-- R120 step 3: after disposal a bus command, presented afresh or taken up, gives `ConnectionError(DISPOSED)` and does nothing else. -/
def Obligations.DisposedGivesConnectionError : Prop :=
  ∀ (c : BusCommand) (s : State), s.phase = .disposed →
    (legalArgs c → s.cfg.enabled = true →
      exec (busInstr c) s = .next (answered s.cur (.err (.connection .disposed)) s)) ∧
    exec (resumeInstr (.bus c)) s = .next (answered s.cur (.err (.connection .disposed)) s)

/-- R120 step 4 and R191: while a response is awaited, a bus command or `DISPOSE` is held with its command, and nothing else changes. -/
def Obligations.LockedCommandIsHeld : Prop :=
  ∀ s : State, s.phase = .awaitRsp →
    (∀ c : BusCommand, legalArgs c → s.cfg.enabled = true →
      exec (busInstr c) s = .next { s with callers := callersSet s.callers s.cur (.held (.bus c)) }) ∧
    exec .dispose s = .next { s with callers := callersSet s.callers s.cur (.held .dispose) }

/-- A `takeUp` event while the lock is held leaves its caller held, and no register changes. Model's choice: log entry 10. The
spec's sentence, "Once `PHASE ≠ AWAIT_RSP`, any one held caller may be taken up." (R191), says nothing of such an event. -/
def Obligations.TakeUpWhileLockedWaits : Prop :=
  ∀ (s : State) (k : CallerId) (h : HeldCommand) (ans : EnvAnswer) (rest : List Event),
    Inv s → s.phase = .awaitRsp → s.callerOf k = .held h → s.inputs = .takeUp k ans :: rest →
      step s = .next { s with inputs := rest, cur := k, answer := ans }

/-- R192: a failed open gives `ConnectionError(OPEN_FAILED)`: the port stays closed, the block idle, the lock free, nothing is sent. -/
def Obligations.OpenFailureSendsNothing : Prop :=
  ∀ (c : BusCommand) (s : State), legalArgs c → s.cfg.enabled = true → s.phase = .idle → s.portOpen = false →
    s.answer.opening = .openFail →
      exec (busInstr c) s = .next (answered s.cur (.err (.connection .openFailed)) s)

/-- R191: a held bus command that is taken up does what the same command presented afresh would do: steps 1 and 2 of R120
need no repeating. -/
def Obligations.TakeUpActsAsPresenting : Prop :=
  ∀ (s : State) (k : CallerId) (c : BusCommand) (ans : EnvAnswer) (rest : List Event),
    s.callerOf k = .held (.bus c) → legalArgs c → s.cfg.enabled = true → s.inputs = .takeUp k ans :: rest →
      step s = exec (busInstr c) { s with inputs := rest, cur := k, answer := ans }

/-! ### Bus commands: the request frames -/

/-- R73: `READ_COILS` sends the eight bytes of `REQ_RD`, writes its request registers and waits for the response. -/
def Obligations.ReadCoilsSendsRequest : Prop :=
  ∀ (start count : Int) (s : State), 0 ≤ start → start ≤ 65535 → 1 ≤ count → count ≤ 2000 → s.cfg.enabled = true → clearToSend s →
    exec (.readCoils start count) s =
      .next (awaiting (.readCoils start count) 0x01
        (sealed [s.cfg.deviceAddr, 0x01, BitVec.ofInt 8 (start / 256), BitVec.ofInt 8 start, BitVec.ofInt 8 (count / 256), BitVec.ofInt 8 count])
        (withRequest .readCoils 0x01 (BitVec.ofInt 16 start) (BitVec.ofInt 16 count) s))

/-- R123: `READ_ALL` sends `REQ_RD` with start 0 and count 8. -/
def Obligations.ReadAllSendsRequest : Prop :=
  ∀ s : State, s.cfg.enabled = true → clearToSend s →
    exec .readAll s =
      .next (awaiting .readAll 0x01 (sealed [s.cfg.deviceAddr, 0x01, 0x00, 0x00, 0x00, 0x08]) (withRequest .readAll 0x01 0 8 s))

/-- R87: `READ_ALL` is `READ_COILS 0, 8` but for `REQ_CMD` and the command its caller is recorded with, in every state. -/
def Obligations.ReadAllIsReadCoilsZeroEight : Prop :=
  ∀ s : State, ∃ t t', exec .readAll s = .next t ∧ exec (.readCoils 0 8) s = .next t' ∧
    t' = { t with reqCmd := t'.reqCmd, callers := t'.callers } ∧
    (t.reqCmd = t'.reqCmd ∨ t.reqCmd = .readAll ∧ t'.reqCmd = .readCoils) ∧
    ∀ k, t.callerOf k = t'.callerOf k ∨
      t.callerOf k = .held (.bus .readAll) ∧ t'.callerOf k = .held (.bus (.readCoils 0 8)) ∨
      t.callerOf k = .inflight .readAll ∧ t'.callerOf k = .inflight (.readCoils 0 8)

/-- R74: `SET_CHANNEL` sends the eight bytes of `REQ_WR1`. -/
def Obligations.SetChannelSendsRequest : Prop :=
  ∀ (channel : Int) (on : Bool) (s : State), 1 ≤ channel → channel ≤ 8 → s.cfg.enabled = true → clearToSend s →
    exec (.setChannel channel on) s =
      .next (awaiting (.setChannel channel on) 0x05
        (sealed [s.cfg.deviceAddr, 0x05, 0x00, BitVec.ofInt 8 (channel - 1), if on then 0xFF else 0x00, 0x00])
        (withRequest .setChannel 0x05 (BitVec.ofInt 16 (channel - 1)) 1 s))

/-- R125 and R126: `SET_ALL` sends the ten bytes of `REQ_WRN`, whose data byte has bit i set exactly when state i is on. -/
def Obligations.SetAllSendsRequest : Prop :=
  ∀ (states : List Bool) (s : State), states.length = 8 → s.cfg.enabled = true → clearToSend s →
    ∃ d : Byte, (∀ i, i < 8 → d.getLsbD i = states.getD i false) ∧
      exec (.setAll states) s =
        .next (awaiting (.setAll states) 0x0F
          (sealed [s.cfg.deviceAddr, 0x0F, 0x00, 0x00, 0x00, 0x08, 0x01, d]) (withRequest .setAll 0x0F 0 8 s))

/-- R73 to R75 for the request rows of the table: a request frame instruction, which runs from step 3 of R120 on, sends its
own frame with the block's address, whatever `ENABLED` is. Model's choice: what a request row runs as (log entry 11), and which command `REQ_RD` belongs to
(log entry 12). -/
def Obligations.RequestFramesAreSent : Prop :=
  ∀ s : State, clearToSend s →
    (∀ start qty : Half,
      exec (.readCoilsRequest start qty) s =
        (if s.callerOf s.cur = .held (.bus .readAll) ∧ start = 0 ∧ qty = 8 then
          .next (awaiting .readAll 0x01 (sealed [s.cfg.deviceAddr, 0x01, 0, 0, 0, 8]) (withRequest .readAll 0x01 0 8 s))
        else
          .next (awaiting (.readCoils start.toNat qty.toNat) 0x01
            (sealed [s.cfg.deviceAddr, 0x01, (start >>> 8).setWidth 8, start.setWidth 8, (qty >>> 8).setWidth 8, qty.setWidth 8])
            (withRequest .readCoils 0x01 start qty s)))) ∧
    (∀ (coil : BitVec 3) (on : Bool),
      exec (.setChannelRequest coil on) s =
        .next (awaiting (.setChannel (coil.toNat + 1) on) 0x05
          (sealed [s.cfg.deviceAddr, 0x05, 0x00, coil.setWidth 8, if on then 0xFF else 0x00, 0x00])
          (withRequest .setChannel 0x05 (coil.setWidth 16) 1 s))) ∧
    (∀ data : Byte, ∃ states : List Bool, states.length = 8 ∧ (∀ i, i < 8 → states.getD i false = data.getLsbD i) ∧
      exec (.setAllRequest data) s =
        .next (awaiting (.setAll states) 0x0F
          (sealed [s.cfg.deviceAddr, 0x0F, 0x00, 0x00, 0x00, 0x08, 0x01, data]) (withRequest .setAll 0x0F 0 8 s)))

/-- R128: what every transmission, whole or cut short, leaves in the request registers, for each command. -/
def Obligations.RequestRegistersAreWritten : Prop :=
  ∀ (c : BusCommand) (s : State), legalArgs c → s.cfg.enabled = true → s.phase = .idle →
    s.portOpen = true ∨ s.answer.opening = .openOk →
      ∃ t, exec (busInstr c) s = .next t ∧ t.reqAddr = s.cfg.deviceAddr ∧
        match c with
        | .readCoils start count =>
          t.reqCmd = .readCoils ∧ t.reqFc = 0x01 ∧ (t.reqStart.toNat : Int) = start ∧ (t.reqQty.toNat : Int) = count
        | .readAll => t.reqCmd = .readAll ∧ t.reqFc = 0x01 ∧ t.reqStart = 0 ∧ t.reqQty = 8
        | .setChannel channel _ => t.reqCmd = .setChannel ∧ t.reqFc = 0x05 ∧ (t.reqStart.toNat : Int) = channel - 1 ∧ t.reqQty = 1
        | .setAll _ => t.reqCmd = .setAll ∧ t.reqFc = 0x0F ∧ t.reqStart = 0 ∧ t.reqQty = 8

/-- R193, outcome `WRITE_TIMEOUT(j)`: the first j bytes go out, if any, the caller gets `Timeout(WRITE)` with `sent = j`, and the
transaction is over; the port stays open. -/
def Obligations.WriteTimeoutEndsTransaction : Prop :=
  ∀ (c : BusCommand) (s : State) (frame : List Byte) (j : Nat), legalArgs c → s.cfg.enabled = true → s.phase = .idle →
    s.portOpen = true ∨ s.answer.opening = .openOk → s.answer.sending = .writeTimeout j →
    encode s.cfg.deviceAddr (resumeInstr (.bus c)) = some frame → j ≤ frame.length →
      ∃ t, exec (busInstr c) s = .next t ∧
        t.txLog = (if j = 0 then s.txLog else s.txLog ++ [frame.take j]) ∧
        t.results = s.results ++ [(s.cur, .err (.timeoutWrite j))] ∧ t.callerOf s.cur = .free ∧
        (∀ k, k ≠ s.cur → t.callerOf k = s.callerOf k) ∧
        t.phase = .idle ∧ t.lockOwner = none ∧ t.portOpen = true ∧ t.rxBuf = [] ∧ t.rxExpect = none ∧
        t.rxPending = s.rxPending ∧ t.cfg = s.cfg ∧ t.inputs = s.inputs

/-- R150 under `KEEP`: bytes kept from before a transaction act as if they arrived, one by one, right after the request was
sent: the same command with nothing kept, followed by those bytes as `RxByte` events, ends in the same state. -/
def Obligations.KeptBytesActAsArrivals : Prop :=
  ∀ (c : BusCommand) (s : State) (kept : List Byte) (rest : List Event), legalArgs c → s.cfg.enabled = true → s.phase = .idle →
    s.portOpen = true ∨ s.answer.opening = .openOk → s.answer.sending = .sent → s.cfg.idleRx = .keep → s.rxPending = kept →
      ∃ t u, exec (busInstr c) { s with rxPending := [], inputs := kept.map Event.rxByte ++ rest } = .next t ∧
        runSteps kept.length t = .next u ∧ exec (busInstr c) { s with inputs := rest } = .next u

/-! ### Responses -/

/-- R160: an `RSP_RD` with the right address and byte count completes the command with its coils, least significant bit first;
bits past the last coil are ignored. -/
def Obligations.ReadCoilsResponseResult : Prop :=
  ∀ (addr : Byte) (data : List Byte) (s : State) (k : CallerId), s.phase = .awaitRsp → s.lockOwner = some k →
    s.reqAddr = addr → s.reqFc = 0x01 → data.length ≤ 255 → data.length = (s.reqQty.toNat + 7) / 8 →
      ∃ coils : List Bool, coils.length = s.reqQty.toNat ∧
        (∀ i, i < s.reqQty.toNat → coils.getD i false = (data.getD (i / 8) 0).getLsbD (i % 8)) ∧
        exec (.readCoilsResponse addr data) s = .next (ended k (.ok (.coils coils)) s)

/-- R161: an `RSP_WR1` with the right address completes the command with `Ok(Unit)`, whatever its bytes 2..5 are. -/
def Obligations.WriteSingleResponseResult : Prop :=
  ∀ (addr b2 b3 b4 b5 : Byte) (s : State) (k : CallerId), s.phase = .awaitRsp → s.lockOwner = some k →
    s.reqAddr = addr → s.reqFc = 0x05 →
      exec (.writeSingleCoilResponse addr b2 b3 b4 b5) s = .next (ended k (.ok .unit) s)

/-- R162: an `RSP_WRN` with the right address completes the command with `Ok(Unit)`, whatever its bytes 2..5 are. -/
def Obligations.WriteMultipleResponseResult : Prop :=
  ∀ (addr b2 b3 b4 b5 : Byte) (s : State) (k : CallerId), s.phase = .awaitRsp → s.lockOwner = some k →
    s.reqAddr = addr → s.reqFc = 0x0F →
      exec (.writeMultipleCoilsResponse addr b2 b3 b4 b5) s = .next (ended k (.ok .unit) s)

/-- R157 and R163: an exception reply with the right address gives `DEVICE_EXCEPTION` with its code and function byte when its
base function is the one sent, `FUNCTION_MISMATCH` otherwise. -/
def Obligations.ExceptionResponseResult : Prop :=
  ∀ (addr : Byte) (fc : BitVec 7) (code : Byte) (extra : List Byte) (s : State) (k : CallerId),
    s.phase = .awaitRsp → s.lockOwner = some k → s.reqAddr = addr →
      exec (.exceptionResponse addr fc code extra) s =
        .next (ended k
          (if fc.setWidth 8 = s.reqFc then
            .err (.deviceException code (0x80 ||| fc.setWidth 8) (sealed (addr :: (0x80 ||| fc.setWidth 8) :: code :: extra)))
          else .err (.protocol .functionMismatch (sealed (addr :: (0x80 ||| fc.setWidth 8) :: code :: extra)))) s)

/-- R156: a response frame with another address gives `ADDRESS_MISMATCH` with the frame, whatever else it holds. -/
def Obligations.WrongAddressIsMismatch : Prop :=
  ∀ (i : Instr) (addr : Byte) (frame : List Byte) (s : State) (k : CallerId), responseAddress i = some addr →
    encode s.cfg.deviceAddr i = some frame → s.phase = .awaitRsp → s.lockOwner = some k → addr ≠ s.reqAddr →
      exec i s = .next (ended k (.err (.protocol .addressMismatch frame)) s)

/-- R165 for whole frames (what a response row runs as is the model's choice, log entry 11): outside a transaction a response changes nothing but `RX_PENDING`, which takes its bytes under
`KEEP` in `IDLE`. -/
def Obligations.StrayResponseIsNotInterpreted : Prop :=
  ∀ (i : Instr) (addr : Byte) (frame : List Byte) (s : State), responseAddress i = some addr →
    encode s.cfg.deviceAddr i = some frame → s.phase ≠ .awaitRsp →
      exec i s = .next (if s.cfg.idleRx = .keep ∧ s.phase = .idle then { s with rxPending := s.rxPending ++ frame } else s)

/-- R154 to R160: the byte that completes a response. The checks run in order, the first that fails gives the error, the last
result is the format's, and the transaction ends. -/
def Obligations.CompletedFrameIsCheckedInOrder : Prop :=
  ∀ (s : State) (b : Byte) (k : CallerId) (rest : List Event), s.phase = .awaitRsp → s.lockOwner = some k →
    s.inputs = .rxByte b :: rest → 5 ≤ s.rxBuf.length + 1 → s.rxExpect = some (s.rxBuf.length + 1) →
    s.reqFc = 0x01 ∨ s.reqFc = 0x05 ∨ s.reqFc = 0x0F →
      let f := s.rxBuf ++ [b]
      let n := f.length
      let fc := f.getD 1 0
      step s = .next (ended k
        (if crc16 (f.take (n - 2)) ≠ (f.getD (n - 2) 0).setWidth 16 ||| ((f.getD (n - 1) 0).setWidth 16 <<< 8) then
          .err (.protocol .crcMismatch f)
        else if f.getD 0 0 ≠ s.reqAddr then .err (.protocol .addressMismatch f)
        else if 0x80 ≤ fc.toNat then
          (if fc.toNat % 128 = s.reqFc.toNat then .err (.deviceException (f.getD 2 0) fc f) else .err (.protocol .functionMismatch f))
        else if fc ≠ s.reqFc then .err (.protocol .functionMismatch f)
        else if s.reqFc = 0x01 then
          (if (f.getD 2 0).toNat ≠ (s.reqQty.toNat + 7) / 8 then .err (.protocol .byteCountMismatch f)
          else .ok (.coils ((List.range s.reqQty.toNat).map fun i =>
            (((f.drop 3).take (f.getD 2 0).toNat).getD (i / 8) 0).getLsbD (i % 8))))
        else .ok .unit) { s with inputs := rest })

/-- R151: a byte that does not complete the response joins `RX_BUF`; `RX_EXPECT` becomes what the bytes so far determine
(R152, R153) and nothing else changes. -/
def Obligations.ByteJoinsTheBuffer : Prop :=
  ∀ (s : State) (b : Byte) (rest : List Event), Inv s → s.phase = .awaitRsp → s.inputs = .rxByte b :: rest →
    responseLength s.cfg.excLength s.reqFc (s.rxBuf ++ [b]) ≠ some (s.rxBuf.length + 1) →
      step s = .next { s with
        inputs := rest
        rxBuf := s.rxBuf ++ [b]
        rxExpect := responseLength s.cfg.excLength s.reqFc (s.rxBuf ++ [b]) }

/-- R150 to R154: a response of the length its header determines, delivered byte by byte to a decoder just started, is
interpreted exactly once, after its last byte: the steps together are the meaning of that response. -/
def Obligations.DeliveredResponseRunsOnce : Prop :=
  ∀ (s : State) (i : Instr) (addr : Byte) (frame : List Byte) (rest : List Event), decoderStarted s →
    s.reqFc = 0x01 ∨ s.reqFc = 0x05 ∨ s.reqFc = 0x0F → responseAddress i = some addr → i.wf = true → answersRequest s.reqFc i →
    encode s.cfg.deviceAddr i = some frame → responseLength s.cfg.excLength s.reqFc frame = some frame.length →
    s.inputs = frame.map Event.rxByte ++ rest →
      runSteps frame.length s = exec i { s with inputs := rest }

/-- R257, the spec's own inference from R153: under `LITERAL` a 5-byte exception reply leaves the block waiting: always after 0x05 and 0x0F, and after 0x01 unless its code is 0. -/
def Obligations.ShortExceptionWaitsUnderLiteral : Prop :=
  ∀ (s : State) (frame : List Byte) (rest : List Event), decoderStarted s → s.cfg.excLength = .literal → frame.length = 5 →
    0x80 ≤ (frame.getD 1 0).toNat →
    (s.reqFc = 0x05 ∨ s.reqFc = 0x0F ∨ s.reqFc = 0x01 ∧ frame.getD 2 0 ≠ 0) → s.inputs = frame.map Event.rxByte ++ rest →
      runSteps 5 s = .next { s with
        inputs := rest
        rxBuf := frame
        rxExpect := if s.reqFc = 0x01 then some (5 + (frame.getD 2 0).toNat) else some 8 }

/-- R165: a byte outside a transaction changes `RX_PENDING` alone, and only under `KEEP` in `IDLE`. -/
def Obligations.StrayByteIsKeptOrDropped : Prop :=
  ∀ (s : State) (b : Byte) (rest : List Event), s.phase ≠ .awaitRsp → s.inputs = .rxByte b :: rest →
    step s = .next (if s.cfg.idleRx = .keep ∧ s.phase = .idle then { s with inputs := rest, rxPending := s.rxPending ++ [b] }
      else { s with inputs := rest })

/-! ### Time-outs, faults of the line, disposal -/

/-- R194: `TIMEOUT` ends the transaction with `Timeout(READ)` and the number of bytes received; in any other phase it does nothing. -/
def Obligations.TimeoutEndsTransaction : Prop :=
  ∀ (s : State) (rest : List Event), s.inputs = .timeout :: rest →
    (∀ k, s.phase = .awaitRsp → s.lockOwner = some k →
      step s = .next (ended k (.err (.timeoutRead s.rxBuf.length)) { s with inputs := rest })) ∧
    (s.phase ≠ .awaitRsp → step s = .next { s with inputs := rest })

/-- R195: `IO_FAULT` ends the transaction with `ConnectionError(IO_FAULT)` and leaves `PORT_OPEN`; in any other phase it does nothing. -/
def Obligations.IoFaultEndsTransaction : Prop :=
  ∀ (s : State) (rest : List Event), s.inputs = .ioFault :: rest →
    (∀ k, s.phase = .awaitRsp → s.lockOwner = some k →
      step s = .next (ended k (.err (.connection .ioFault)) { s with inputs := rest })) ∧
    (s.phase ≠ .awaitRsp → step s = .next { s with inputs := rest })

/-- R197: `DISPOSE` in the two phases it completes in: it closes the port, empties `RX_PENDING` and disposes; after that it is idempotent. -/
def Obligations.DisposeClosesThePort : Prop :=
  ∀ s : State,
    (s.phase = .idle →
      exec .dispose s = .next (answered s.cur (.ok .unit) { s with portOpen := false, rxPending := [], phase := .disposed })) ∧
    (s.phase = .disposed → exec .dispose s = .next (answered s.cur (.ok .unit) s))

/-- R197: nothing leaves `DISPOSED`, and the line sees nothing more. -/
def Obligations.DisposedIsForEver : Prop :=
  ∀ s t : State, s.phase = .disposed → step s = .next t →
    t.phase = .disposed ∧ t.txLog = s.txLog ∧ t.portOpen = s.portOpen ∧ t.rxPending = s.rxPending

/-! ### The whole machine -/

/-- R38: the registers after reset, for every configuration, but for the request registers. -/
def Obligations.ResetValues : Prop :=
  ∀ cfg : Config,
    let s := State.resetWith cfg
    s.cfg = cfg ∧ s.phase = .idle ∧ s.lockOwner = none ∧ s.portOpen = false ∧ s.rxBuf = [] ∧ s.rxExpect = none ∧
      s.rxPending = [] ∧ (∀ k, s.callerOf k = .free) ∧ s.txLog = []

/-- The invariant holds after reset, for every configuration. -/
def Obligations.InvariantAtReset : Prop :=
  ∀ cfg : Config, Inv (State.resetWith cfg)

/-- Every step keeps the invariant. -/
def Obligations.StepKeepsInvariant : Prop :=
  ∀ s t : State, Inv s → step s = .next t → Inv t

/-- R31, the spec's own inference: the decoder never holds more than 260 bytes; and a known response length is 5..260 (R20). -/
def Obligations.ReceiveBufferIsBounded : Prop :=
  ∀ s : State, Inv s →
    s.rxBuf.length < 260 ∧ ∀ n, s.rxExpect = some n → 5 ≤ n ∧ n ≤ 260 ∧ s.rxBuf.length < n

/-- R34: the configuration never changes. -/
def Obligations.ConfigurationIsLatched : Prop :=
  ∀ s t : State, step s = .next t → t.cfg = s.cfg

/-- R190: while the lock is held no frame goes out and the request registers stand, and the lock is released only with a
result for its owner, into `IDLE`. -/
def Obligations.LockSerialisesTransactions : Prop :=
  ∀ (s t : State) (k : CallerId), Inv s → s.phase = .awaitRsp → s.lockOwner = some k → step s = .next t →
    t.txLog = s.txLog ∧ t.reqCmd = s.reqCmd ∧ t.reqAddr = s.reqAddr ∧ t.reqFc = s.reqFc ∧ t.reqStart = s.reqStart ∧
    t.reqQty = s.reqQty ∧ t.rxPending = s.rxPending ∧ t.portOpen = s.portOpen ∧
      (t.phase = .awaitRsp ∧ t.lockOwner = some k ∧ t.callerOf k = s.callerOf k ∨
        t.phase = .idle ∧ t.lockOwner = none ∧ t.rxBuf = [] ∧ t.rxExpect = none ∧
          ∃ r, t.results = s.results ++ [(k, r)] ∧ t.callerOf k = .free)

/-- R71 and R198: a step emits at most one frame: a whole request frame of the block, or, when the write times out, the first
bytes of one. -/
def Obligations.EmittedFramesAreRequests : Prop :=
  ∀ s t : State, step s = .next t →
    t.txLog = s.txLog ∨
      ∃ sent frame, t.txLog = s.txLog ++ [sent] ∧ requestShape s.cfg.deviceAddr frame ∧ sent ≠ [] ∧ sent <+: frame ∧
        (sent = frame ∨ ∃ j, t.answer.sending = .writeTimeout j)

/-- R84 and R32: a step delivers at most one result. It goes to a caller that presents or waits, which is then free; no other
caller's state changes with it; and a caller without a result goes on waiting. -/
def Obligations.OneResultPerCommand : Prop :=
  ∀ s t : State, Inv s → step s = .next t →
    (t.results = s.results ∧ ∀ k, s.callerOf k ≠ .free ∨ presents s k → t.callerOf k ≠ .free) ∨
      ∃ k r, t.results = s.results ++ [(k, r)] ∧ (s.callerOf k ≠ .free ∨ presents s k) ∧ t.callerOf k = .free ∧
        ∀ j, j ≠ k → t.callerOf j = s.callerOf j

/-- R223, the spec's own inference, and R83: the result of a command is one its row of the matrix allows, and a success has the shape of its tag. -/
def Obligations.ResultsFollowTheMatrix : Prop :=
  ∀ (s t : State) (k : CallerId) (r : Result), Inv s → step s = .next t → t.results = s.results ++ [(k, r)] →
    ∃ c, outstanding s k c ∧ resultAllowed c r = true

/-- R120 step 2, over every step: a disabled block never sends a frame and never opens the port. -/
def Obligations.DisabledNeverTransmits : Prop :=
  ∀ s t : State, Inv s → s.cfg.enabled = false → step s = .next t →
    t.txLog = s.txLog ∧ (t.portOpen = true → s.portOpen = true) ∧ t.phase ≠ .awaitRsp

/-- R39, the spec's own inference: the values of the request registers outside a transaction cannot be observed: from two states that differ only there,
a step gives states that differ at most there. -/
def Obligations.IdleRequestRegistersAreUnobservable : Prop :=
  ∀ s s' : State, sameButRequest s s' → sameOutcome (step s) (step s')

/-- R84, R191, R194: in every infinite run with `TIMEOUT_FAIRNESS` and `LOCK_FAIRNESS`, every caller that waits is answered.
Model's choice: the form of the two premises, with a lock that stays free for ever counted as released infinitely often
(log entry 19). -/
def Obligations.EveryWaitingCallerIsAnswered : Prop :=
  ∀ tr : Nat → State, Inv (tr 0) → Run tr → TimeoutFairness tr → LockFairness tr →
    ∀ n k, (tr n).callerOf k ≠ .free → ∃ m, n ≤ m ∧ (tr m).callerOf k = .free

/-- R32 and R199: a second command from a caller with one outstanding is refused. Model's choice of how: log entry 9. -/
def Obligations.BusyCallerIsRefused : Prop :=
  ∀ (s : State) (k : CallerId) (c : Command) (ans : EnvAnswer) (rest : List Event),
    s.inputs = .present k c ans :: rest → s.callerOf k ≠ .free → step s = .refused .callerBusy

/-- A step runs the decoded instruction: the command a free caller presents, the request frame a held caller resumes as, and
the response that the last byte completes; around it the step takes the event off the schedule and notes the caller and the
outcomes drawn for it. Model's choice: that a held command resumes as its request row and a completed frame runs as its
response row (log entry 11), the schedule (log entry 4), and the noted caller and outcomes (log entry 5). -/
def Obligations.StepRunsTheDecodedInstruction : Prop :=
  (∀ (s : State) (k : CallerId) (c : Command) (ans : EnvAnswer) (rest : List Event),
    s.inputs = .present k c ans :: rest → s.callerOf k = .free →
      step s = exec (commandInstr c) { s with inputs := rest, cur := k, answer := ans }) ∧
  (∀ (s : State) (k : CallerId) (h : HeldCommand) (ans : EnvAnswer) (rest : List Event),
    s.inputs = .takeUp k ans :: rest → s.callerOf k = .held h →
      step s = exec (resumeInstr h) { s with inputs := rest, cur := k, answer := ans }) ∧
  (∀ (s : State) (b : Byte) (i : Instr) (rest : List Event),
    s.inputs = .rxByte b :: rest → s.phase = .awaitRsp → 3 ≤ s.rxBuf.length → s.rxExpect = some (s.rxBuf.length + 1) →
    decodeResponse s.reqFc (s.rxBuf ++ [b]) = .ok i →
      step s = exec i { s with inputs := rest, rxBuf := s.rxBuf ++ [b] })

/-! ### Encodings -/

/-- R70 to R75: decoding an encoded request gives it back, for every operand value. -/
def Obligations.RequestsDecodeAsEncoded : Prop :=
  ∀ (addr : Byte) (i : Instr) (frame : List Byte), isRequest i = true → i.wf = true → encode addr i = some frame →
    decodeRequest addr frame = .ok i

/-- R76 to R79: decoding an encoded response, as the answer to its own request, gives it back, for every operand value. -/
def Obligations.ResponsesDecodeAsEncoded : Prop :=
  ∀ (addr reqFc : Byte) (i : Instr) (frame : List Byte), i.wf = true → answersRequest reqFc i → encode addr i = some frame →
    decodeResponse reqFc frame = .ok i

/-- R71, R76 to R79, the other way round: a frame that decodes is the encoding of what it decodes to, so no two frames decode alike. -/
def Obligations.DecodedFramesReencode : Prop :=
  (∀ (addr : Byte) (i : Instr) (frame : List Byte), decodeRequest addr frame = .ok i → encode addr i = some frame) ∧
  ∀ (addr reqFc : Byte) (i : Instr) (frame : List Byte), decodeResponse reqFc frame = .ok i → encode addr i = some frame

/-- Words of spec/95_test_vectors.md decode to the instructions they stand for. -/
def Obligations.WrittenWordsDecode : Prop :=
  decodeRequest 0x11 [0x11, 0x01, 0x00, 0x13, 0x00, 0x25, 0x0E, 0x84] = .ok (.readCoilsRequest 0x13 0x25) ∧
  decodeRequest 0x01 [0x01, 0x05, 0x00, 0x07, 0x00, 0x00, 0x7C, 0x0B] = .ok (.setChannelRequest 7 false) ∧
  decodeRequest 0x01 [0x01, 0x0F, 0x00, 0x00, 0x00, 0x08, 0x01, 0x05, 0x3E, 0x96] = .ok (.setAllRequest 0x05) ∧
  decodeResponse 0x01 [0x01, 0x01, 0x02, 0x34, 0x12, 0x2F, 0x31] = .ok (.readCoilsResponse 0x01 [0x34, 0x12]) ∧
  decodeResponse 0x05 [0x01, 0x05, 0x00, 0x02, 0xFF, 0x00, 0x2D, 0xFA] = .ok (.writeSingleCoilResponse 0x01 0x00 0x02 0xFF 0x00) ∧
  decodeResponse 0x0F [0x01, 0x8F, 0x02, 0xC5, 0xF1] = .ok (.exceptionResponse 0x01 0x0F 0x02 [])

/-- R126: bit i of `pack v` is state i, `unpack` is the inverse of `pack` on eight coils, and `pack` of `unpack` on a byte. -/
def Obligations.PackAndUnpackAreInverse : Prop :=
  (∀ (v : List Bool), v.length = 8 →
    (∀ i, i < 8 → (pack v).getLsbD i = v.getD i false) ∧ unpack [pack v] 8 = v) ∧ ∀ d : Byte, pack (unpack [d] 8) = d

/-- R220 and R221: the code of each kind, which kinds are retryable, and the subcode of each subkind. -/
def Obligations.ResultCodes : Prop :=
  (∀ v : Value, resultCode (.ok v) = 0) ∧
  (∀ a : ArgSub, resultCode (.err (.argument a)) = 1) ∧
  (∀ n : Nat, resultCode (.err (.timeoutRead n)) = 2 ∧ resultCode (.err (.timeoutWrite n)) = 2) ∧
  (∀ (p : ProtoSub) (f : List Byte) (code fc : Byte),
    resultCode (.err (.protocol p f)) = 3 ∧ resultCode (.err (.deviceException code fc f)) = 3) ∧
  (∀ x : ConnSub, resultCode (.err (.connection x)) = 4) ∧ resultCode (.err .configDisabled) = 5 ∧
  (∀ e : BusError, retryable (errorKind e) = true ↔ resultCode (.err e) = 2 ∨ resultCode (.err e) = 4) ∧
  errorSubcode (.argument .countRange) = 1 ∧ errorSubcode (.argument .startRange) = 2 ∧
  errorSubcode (.argument .channelRange) = 3 ∧ errorSubcode (.argument .statesLength) = 4 ∧
  errorSubcode (.argument .badLength) = 5 ∧
  (∀ n : Nat, errorSubcode (.timeoutRead n) = 1 ∧ errorSubcode (.timeoutWrite n) = 2) ∧
  (∀ f : List Byte, errorSubcode (.protocol .crcMismatch f) = 1 ∧ errorSubcode (.protocol .addressMismatch f) = 2 ∧
    errorSubcode (.protocol .functionMismatch f) = 3 ∧ errorSubcode (.protocol .byteCountMismatch f) = 4) ∧
  (∀ (code fc : Byte) (f : List Byte), errorSubcode (.deviceException code fc f) = 5) ∧
  errorSubcode (.connection .openFailed) = 1 ∧ errorSubcode (.connection .disposed) = 2 ∧
  errorSubcode (.connection .ioFault) = 3 ∧ errorSubcode .configDisabled = 1

/-- From R220 and R221: code with subcode tell the kinds and subkinds apart; two errors with both alike differ at most in
the rest of their info. -/
def Obligations.ResultCodesTellErrorsApart : Prop :=
  ∀ e e' : BusError, resultCode (.err e) = resultCode (.err e') → errorSubcode e = errorSubcode e' →
    match e, e' with
    | .argument a, .argument a' => a = a'
    | .timeoutRead _, .timeoutRead _ => True
    | .timeoutWrite _, .timeoutWrite _ => True
    | .protocol p _, .protocol p' _ => p = p'
    | .deviceException _ _ _, .deviceException _ _ _ => True
    | .connection x, .connection x' => x = x'
    | .configDisabled, .configDisabled => True
    | _, _ => False
end

