-- ==== Sys2Proof/Laws/Callers.lean ====
section
/-! SUPPORT. The table of callers: reading after a write, and the canonical form is kept (10_state.md R32). -/

namespace Sys2Proof.Machine

theorem callersGet_erase_same (t : List (CallerId × CallerState)) (k : CallerId) :
    callersGet (callersErase t k) k = .free := by
  induction t with
  | nil => rfl
  | cons e rest ih =>
    obtain ⟨j, c⟩ := e
    by_cases h : j = k <;> simp [callersErase, callersGet, h, ih]

theorem callersGet_erase_other (t : List (CallerId × CallerState)) {j k : CallerId} (h : j ≠ k) :
    callersGet (callersErase t k) j = callersGet t j := by
  induction t with
  | nil => rfl
  | cons e rest ih =>
    obtain ⟨i, c⟩ := e
    by_cases hi : i = k
    · subst hi
      simp [callersErase, callersGet, ih, Ne.symm h]
    · simp [callersErase, callersGet, hi, ih]

theorem callersGet_insert_same (t : List (CallerId × CallerState)) (k : CallerId) (c : CallerState)
    (h : ∀ e ∈ t, e.1 ≠ k) : callersGet (callersInsert t k c) k = c := by
  induction t with
  | nil => simp [callersInsert, callersGet]
  | cons e rest ih =>
    obtain ⟨j, d⟩ := e
    have hj : j ≠ k := h (j, d) (by simp)
    by_cases hk : k < j
    · simp [callersInsert, callersGet, hk]
    · simp [callersInsert, callersGet, hk, hj, ih fun e he => h e (by simp [he])]

theorem callersGet_insert_other (t : List (CallerId × CallerState)) {j k : CallerId} (c : CallerState) (h : j ≠ k) :
    callersGet (callersInsert t k c) j = callersGet t j := by
  induction t with
  | nil => simp [callersInsert, callersGet, Ne.symm h]
  | cons e rest ih =>
    obtain ⟨i, d⟩ := e
    by_cases hk : k < i
    · simp [callersInsert, callersGet, hk, Ne.symm h]
    · simp [callersInsert, callersGet, hk, ih]

theorem callersErase_not_mem (t : List (CallerId × CallerState)) (k : CallerId) :
    ∀ e ∈ callersErase t k, e.1 ≠ k := by
  induction t with
  | nil => simp [callersErase]
  | cons e rest ih =>
    obtain ⟨j, c⟩ := e
    by_cases h : j = k
    · simpa [callersErase, h] using ih
    · intro e he
      simp only [callersErase, h, if_false, List.mem_cons] at he
      rcases he with rfl | he
      · exact h
      · exact ih e he

@[simp] theorem callersGet_set_same (t : List (CallerId × CallerState)) (k : CallerId) (c : CallerState) :
    callersGet (callersSet t k c) k = c := by
  cases c with
  | free => exact callersGet_erase_same t k
  | held h => exact callersGet_insert_same _ _ _ (callersErase_not_mem t k)
  | inflight b => exact callersGet_insert_same _ _ _ (callersErase_not_mem t k)

@[simp] theorem callersGet_set_other (t : List (CallerId × CallerState)) {j k : CallerId} (c : CallerState) (h : j ≠ k) :
    callersGet (callersSet t k c) j = callersGet t j := by
  cases c with
  | free => exact callersGet_erase_other t h
  | held x => exact (callersGet_insert_other _ _ h).trans (callersGet_erase_other t h)
  | inflight x => exact (callersGet_insert_other _ _ h).trans (callersGet_erase_other t h)

/-- Reading after a write, both cases at once. -/
theorem callersGet_set (t : List (CallerId × CallerState)) (j k : CallerId) (c : CallerState) :
    callersGet (callersSet t k c) j = if j = k then c else callersGet t j := by
  by_cases h : j = k
  · subst h; simp
  · simp [h]

theorem callersErase_all_lt {t : List (CallerId × CallerState)} {i : CallerId} (k : CallerId)
    (h : ∀ e ∈ t, i < e.1) : ∀ e ∈ callersErase t k, i < e.1 := by
  induction t with
  | nil => simp [callersErase]
  | cons e rest ih =>
    obtain ⟨j, c⟩ := e
    have hr := ih fun e he => h e (List.mem_cons_of_mem _ he)
    by_cases hj : j = k
    · simpa [callersErase, hj] using hr
    · intro e he
      simp only [callersErase, hj, if_false, List.mem_cons] at he
      rcases he with rfl | he
      · exact h _ (by simp)
      · exact hr e he

theorem callersWf_erase {t : List (CallerId × CallerState)} (k : CallerId) (h : callersWf t = true) :
    callersWf (callersErase t k) = true := by
  induction t with
  | nil => exact h
  | cons e rest ih =>
    obtain ⟨j, c⟩ := e
    simp only [callersWf, Bool.and_eq_true, decide_eq_true_eq, List.all_eq_true] at h
    by_cases hj : j = k
    · simpa [callersErase, hj] using ih h.2
    · simp only [callersErase, hj, if_false, callersWf, Bool.and_eq_true, decide_eq_true_eq, List.all_eq_true]
      exact ⟨⟨h.1.1, callersErase_all_lt k h.1.2⟩, ih h.2⟩

theorem callersInsert_all_lt {t : List (CallerId × CallerState)} {i k : CallerId} (c : CallerState)
    (h : ∀ e ∈ t, i < e.1) (hk : i < k) : ∀ e ∈ callersInsert t k c, i < e.1 := by
  induction t with
  | nil => simpa [callersInsert] using hk
  | cons e rest ih =>
    obtain ⟨j, d⟩ := e
    intro e he
    by_cases hkj : k < j
    · simp only [callersInsert, hkj, if_true, List.mem_cons] at he
      rcases he with rfl | rfl | he
      · exact hk
      · exact h _ (by simp)
      · exact h e (by simp [he])
    · simp only [callersInsert, hkj, if_false, List.mem_cons] at he
      rcases he with rfl | he
      · exact h _ (by simp)
      · exact ih (fun e he => h e (List.mem_cons_of_mem _ he)) e he

theorem callersWf_insert {t : List (CallerId × CallerState)} {k : CallerId} {c : CallerState} (hc : c ≠ .free)
    (hk : ∀ e ∈ t, e.1 ≠ k) (h : callersWf t = true) : callersWf (callersInsert t k c) = true := by
  induction t with
  | nil => simp [callersInsert, callersWf, hc]
  | cons e rest ih =>
    obtain ⟨j, d⟩ := e
    have hw := h
    simp only [callersWf, Bool.and_eq_true, decide_eq_true_eq, List.all_eq_true] at h
    by_cases hkj : k < j
    · simp only [callersInsert, hkj, if_true, callersWf, Bool.and_eq_true, decide_eq_true_eq, List.all_eq_true]
      refine ⟨⟨hc, fun e he => ?_⟩, h⟩
      simp only [List.mem_cons] at he
      rcases he with rfl | he
      · exact hkj
      · exact hkj.trans (h.1.2 e he)
    · simp only [callersInsert, hkj, if_false, callersWf, Bool.and_eq_true, decide_eq_true_eq, List.all_eq_true]
      have hjk : j ≠ k := hk (j, d) (by simp)
      refine ⟨⟨h.1.1, callersInsert_all_lt c h.1.2 (Nat.lt_of_le_of_ne (Nat.le_of_not_lt hkj) hjk)⟩, ih (fun e he => hk e (List.mem_cons_of_mem _ he)) h.2⟩

/-- Every write keeps the canonical form. -/
theorem callersWf_set {t : List (CallerId × CallerState)} (k : CallerId) (c : CallerState) (h : callersWf t = true) :
    callersWf (callersSet t k c) = true := by
  cases c with
  | free => exact callersWf_erase k h
  | held x => exact callersWf_insert (by simp) (callersErase_not_mem t k) (callersWf_erase k h)
  | inflight x => exact callersWf_insert (by simp) (callersErase_not_mem t k) (callersWf_erase k h)

theorem callersGet_of_all_lt {t : List (CallerId × CallerState)} {k : CallerId} (h : ∀ e ∈ t, k < e.1) :
    callersGet t k = .free := by
  induction t with
  | nil => rfl
  | cons e rest ih =>
    obtain ⟨j, c⟩ := e
    have : j ≠ k := Nat.ne_of_gt (h (j, c) (by simp))
    simp [callersGet, this, ih fun e he => h e (List.mem_cons_of_mem _ he)]

/-- Canonical tables with the same reading are equal. -/
theorem callersWf_ext {t u : List (CallerId × CallerState)} (ht : callersWf t = true) (hu : callersWf u = true)
    (h : ∀ k, callersGet t k = callersGet u k) : t = u := by
  induction t generalizing u with
  | nil =>
    cases u with
    | nil => rfl
    | cons e rest =>
      obtain ⟨j, c⟩ := e
      simp only [callersWf, Bool.and_eq_true, decide_eq_true_eq] at hu
      have := h j
      simp [callersGet] at this
      exact absurd this.symm hu.1.1
  | cons e rest ih =>
    obtain ⟨j, c⟩ := e
    simp only [callersWf, Bool.and_eq_true, decide_eq_true_eq, List.all_eq_true] at ht
    cases u with
    | nil =>
      have := h j
      simp [callersGet] at this
      exact absurd this ht.1.1
    | cons e' rest' =>
      obtain ⟨j', c'⟩ := e'
      simp only [callersWf, Bool.and_eq_true, decide_eq_true_eq, List.all_eq_true] at hu
      have hjj : j = j' := by
        by_contra hne
        rcases Nat.lt_or_gt_of_ne hne with hlt | hlt
        · have := h j
          rw [callersGet_of_all_lt (t := (j', c') :: rest') (k := j)
            (by intro e he; simp only [List.mem_cons] at he; rcases he with rfl | he
                · exact hlt
                · exact hlt.trans (hu.1.2 e he))] at this
          simp [callersGet] at this
          exact ht.1.1 this
        · have := h j'
          rw [callersGet_of_all_lt (t := (j, c) :: rest) (k := j')
            (by intro e he; simp only [List.mem_cons] at he; rcases he with rfl | he
                · exact hlt
                · exact hlt.trans (ht.1.2 e he))] at this
          simp [callersGet] at this
          exact hu.1.1 this.symm
      subst hjj
      have hcc : c = c' := by simpa [callersGet] using h j
      subst hcc
      refine congrArg _ (ih ht.2 hu.2 fun k => ?_)
      by_cases hk : j = k
      · subst hk
        rw [callersGet_of_all_lt ht.1.2, callersGet_of_all_lt hu.1.2]
      · simpa [callersGet, hk] using h k

/-- Writing what a caller's state already is leaves a canonical table as it is. -/
theorem callersSet_self {t : List (CallerId × CallerState)} {k : CallerId} {c : CallerState} (h : callersWf t = true)
    (hk : callersGet t k = c) : callersSet t k c = t :=
  callersWf_ext (callersWf_set k c h) h fun j => by
    rw [callersGet_set]
    by_cases hj : j = k
    · simp [hj, hk]
    · simp [hj]

/-- Two writes to one caller: the later one stands. -/
theorem callersSet_set {t : List (CallerId × CallerState)} (k : CallerId) (c d : CallerState) (h : callersWf t = true) :
    callersSet (callersSet t k c) k d = callersSet t k d :=
  callersWf_ext (callersWf_set k d (callersWf_set k c h)) (callersWf_set k d h) fun j => by
    simp only [callersGet_set]
    by_cases hj : j = k <;> simp [hj]

end Sys2Proof.Machine
end

