-- ==== Sys2Proof/Laws/Crc.lean ====
section
/-! SUPPORT. The checksum functions: one spec lemma per function (40_checksum.md R101 to R106). -/

namespace Sys2Proof.Machine

open Safety

@[simp] theorem crcFrom_nil (c : Half) : crcFrom c [] = c := rfl

@[simp] theorem crcFrom_cons (c : Half) (b : Byte) (rest : List Byte) : crcFrom c (b :: rest) = crcFrom (crcStep c b) rest := rfl

theorem crcFrom_append (c : Half) (a b : List Byte) : crcFrom c (a ++ b) = crcFrom (crcFrom c a) b :=
  List.foldl_append ..

@[simp] theorem crcField_length (c : Half) : (crcField c).length = 2 := rfl

@[simp] theorem appendCrc_length (b : List Byte) : (appendCrc b).length = b.length + 2 := by simp [appendCrc]

theorem appendCrc_eq_sealed (b : List Byte) : appendCrc b = sealed b := rfl

@[simp] theorem crcBody_appendCrc (b : List Byte) : crcBody (appendCrc b) = b := by
  simp [crcBody, appendCrc]

/-- The bytes of a 16-bit value, put together again, are the value. -/
theorem crc_bytes (c : Half) :
    (c.setWidth 8 : Byte).setWidth 16 ||| (((c >>> 8).setWidth 8 : Byte).setWidth 16 <<< 8) = c := by
  ext i hi
  simp only [BitVec.getElem_or, BitVec.getElem_shiftLeft, BitVec.getElem_setWidth, BitVec.getLsbD_setWidth,
    BitVec.getLsbD_ushiftRight]
  by_cases h : i < 8
  · simp [h, BitVec.getLsbD_eq_getElem hi]
  · have h2 : i - 8 < 8 := by omega
    have h3 : 8 + (i - 8) = i := by omega
    simp [h, h2, h3, BitVec.getLsbD_eq_getElem hi]

/-- A 16-bit value put together from two bytes gives them back. -/
theorem bytes_of_crc (l h : Byte) :
    ((l.setWidth 16 ||| (h.setWidth 16 <<< 8) : Half).setWidth 8 = l) ∧
      ((l.setWidth 16 ||| (h.setWidth 16 <<< 8) : Half) >>> 8).setWidth 8 = h := by
  constructor
  · ext i hi
    simp
  · ext i hi
    have h1 : ¬ 8 + i < 8 := by omega
    have h2 : 8 + i < 16 := by omega
    have h3 : ¬ 8 + i < 8 := by omega
    simp [h2, BitVec.getLsbD_eq_getElem hi]

theorem crcCarried_appendCrc (b : List Byte) : crcCarried (appendCrc b) = crc16 b := by
  simp only [crcCarried, appendCrc_length]
  have h0 : (appendCrc b).getD (b.length + 2 - 2) 0 = (crc16 b).setWidth 8 := by simp [appendCrc, crcField, List.getD]
  have h1 : (appendCrc b).getD (b.length + 2 - 1) 0 = ((crc16 b) >>> 8).setWidth 8 := by
    simp [appendCrc, crcField, List.getD]
  rw [h0, h1, crc_bytes]

/-- R106 law (1) for the frame test. -/
theorem crcValid_appendCrc (b : List Byte) : crcValid (appendCrc b) = true := by
  simp [crcValid, crcCarried_appendCrc]

/-- A frame that passes the test is its body with the CRC appended. -/
theorem eq_appendCrc_of_crcValid {f : List Byte} (h : crcValid f = true) : f = appendCrc (crcBody f) := by
  simp only [crcValid, Bool.and_eq_true, decide_eq_true_eq] at h
  obtain ⟨hlen, hcrc⟩ := h
  obtain ⟨n, hn⟩ : ∃ n, f.length = n + 2 := ⟨f.length - 2, by omega⟩
  have hsplit : f = f.take n ++ [f.getD n 0, f.getD (n + 1) 0] := by
    conv_lhs => rw [← List.take_append_drop n f]
    congr 1
    apply List.ext_getElem
    · simp [hn]
    · intro i h1 h2
      have hi : i < 2 := by simpa using h2
      match i, hi with
      | 0, _ => simp [List.getD, List.getElem?_eq_getElem (show n < f.length by omega)]
      | 1, _ => simp [List.getD, List.getElem?_eq_getElem (show n + 1 < f.length by omega)]
  have hb : crcBody f = f.take n := by simp [crcBody, hn]
  rw [hb] at hcrc ⊢
  simp only [crcCarried, hn, Nat.add_sub_cancel, show n + 2 - 1 = n + 1 from rfl] at hcrc
  have hf := bytes_of_crc (f.getD n 0) (f.getD (n + 1) 0)
  rw [← hcrc] at hf
  simp only [appendCrc, crcField, hf.1, hf.2]
  exact hsplit

/-- The inner loop's turn undone. -/
def crcUnshift (d : Half) : Half :=
  if d.getLsbD 15 then ((d ^^^ 0xA001) <<< 1) ||| 1 else d <<< 1

theorem crcShift_injective : Function.Injective crcShift := by
  refine Function.LeftInverse.injective (g := crcUnshift) fun c => ?_
  have key : (crcShift c).getLsbD 15 = c.getLsbD 0 := by
    unfold crcShift
    split
    · rename_i h; rw [h]; simp
    · rename_i h
      have h' : c.getLsbD 0 = false := by simpa using h
      rw [h']; simp
  unfold crcUnshift
  rw [key]
  unfold crcShift
  split
  · rename_i h
    rw [BitVec.xor_assoc, BitVec.xor_self, BitVec.xor_zero]
    ext i hi
    by_cases h0 : i = 0
    · subst h0; simpa [BitVec.getLsbD_eq_getElem] using h.symm
    · have h1 : 1 + (i - 1) = i := by omega
      have : (1#16).getLsbD i = false := by
        rw [BitVec.getLsbD_one]; simp [h0]
      simp [h0, h1, BitVec.getLsbD_eq_getElem hi]
  · rename_i h
    have h' : c.getLsbD 0 = false := by simpa using h
    ext i hi
    by_cases h0 : i = 0
    · subst h0; simpa [BitVec.getLsbD_eq_getElem] using h'.symm
    · have h1 : 1 + (i - 1) = i := by omega
      simp [h0, h1, BitVec.getLsbD_eq_getElem hi]

theorem crcShifts_injective (n : Nat) : Function.Injective (crcShifts n) := by
  induction n with
  | zero => exact fun _ _ h => h
  | succ n ih => exact fun _ _ h => crcShift_injective (ih h)

end Sys2Proof.Machine
end

