-- ==== Sys2Proof/Laws/State.lean ====
section
/-! SUPPORT. One lemma per field per update of the state. -/

namespace Sys2Proof.Machine

@[simp] theorem setCaller_cfg (s : State) (k : CallerId) (c : CallerState) : (s.setCaller k c).cfg = s.cfg := rfl
@[simp] theorem setCaller_phase (s : State) (k : CallerId) (c : CallerState) : (s.setCaller k c).phase = s.phase := rfl
@[simp] theorem setCaller_lockOwner (s : State) (k : CallerId) (c : CallerState) : (s.setCaller k c).lockOwner = s.lockOwner := rfl
@[simp] theorem setCaller_portOpen (s : State) (k : CallerId) (c : CallerState) : (s.setCaller k c).portOpen = s.portOpen := rfl
@[simp] theorem setCaller_reqCmd (s : State) (k : CallerId) (c : CallerState) : (s.setCaller k c).reqCmd = s.reqCmd := rfl
@[simp] theorem setCaller_reqAddr (s : State) (k : CallerId) (c : CallerState) : (s.setCaller k c).reqAddr = s.reqAddr := rfl
@[simp] theorem setCaller_reqFc (s : State) (k : CallerId) (c : CallerState) : (s.setCaller k c).reqFc = s.reqFc := rfl
@[simp] theorem setCaller_reqStart (s : State) (k : CallerId) (c : CallerState) : (s.setCaller k c).reqStart = s.reqStart := rfl
@[simp] theorem setCaller_reqQty (s : State) (k : CallerId) (c : CallerState) : (s.setCaller k c).reqQty = s.reqQty := rfl
@[simp] theorem setCaller_rxBuf (s : State) (k : CallerId) (c : CallerState) : (s.setCaller k c).rxBuf = s.rxBuf := rfl
@[simp] theorem setCaller_rxExpect (s : State) (k : CallerId) (c : CallerState) : (s.setCaller k c).rxExpect = s.rxExpect := rfl
@[simp] theorem setCaller_rxPending (s : State) (k : CallerId) (c : CallerState) : (s.setCaller k c).rxPending = s.rxPending := rfl
@[simp] theorem setCaller_callers (s : State) (k : CallerId) (c : CallerState) : (s.setCaller k c).callers = callersSet s.callers k c := rfl
@[simp] theorem setCaller_txLog (s : State) (k : CallerId) (c : CallerState) : (s.setCaller k c).txLog = s.txLog := rfl
@[simp] theorem setCaller_results (s : State) (k : CallerId) (c : CallerState) : (s.setCaller k c).results = s.results := rfl
@[simp] theorem setCaller_inputs (s : State) (k : CallerId) (c : CallerState) : (s.setCaller k c).inputs = s.inputs := rfl
@[simp] theorem setCaller_cur (s : State) (k : CallerId) (c : CallerState) : (s.setCaller k c).cur = s.cur := rfl
@[simp] theorem setCaller_answer (s : State) (k : CallerId) (c : CallerState) : (s.setCaller k c).answer = s.answer := rfl

@[simp] theorem complete_cfg (k : CallerId) (r : Result) (s : State) : (complete k r s).cfg = s.cfg := rfl
@[simp] theorem complete_phase (k : CallerId) (r : Result) (s : State) : (complete k r s).phase = s.phase := rfl
@[simp] theorem complete_lockOwner (k : CallerId) (r : Result) (s : State) : (complete k r s).lockOwner = s.lockOwner := rfl
@[simp] theorem complete_portOpen (k : CallerId) (r : Result) (s : State) : (complete k r s).portOpen = s.portOpen := rfl
@[simp] theorem complete_reqCmd (k : CallerId) (r : Result) (s : State) : (complete k r s).reqCmd = s.reqCmd := rfl
@[simp] theorem complete_reqAddr (k : CallerId) (r : Result) (s : State) : (complete k r s).reqAddr = s.reqAddr := rfl
@[simp] theorem complete_reqFc (k : CallerId) (r : Result) (s : State) : (complete k r s).reqFc = s.reqFc := rfl
@[simp] theorem complete_reqStart (k : CallerId) (r : Result) (s : State) : (complete k r s).reqStart = s.reqStart := rfl
@[simp] theorem complete_reqQty (k : CallerId) (r : Result) (s : State) : (complete k r s).reqQty = s.reqQty := rfl
@[simp] theorem complete_rxBuf (k : CallerId) (r : Result) (s : State) : (complete k r s).rxBuf = s.rxBuf := rfl
@[simp] theorem complete_rxExpect (k : CallerId) (r : Result) (s : State) : (complete k r s).rxExpect = s.rxExpect := rfl
@[simp] theorem complete_rxPending (k : CallerId) (r : Result) (s : State) : (complete k r s).rxPending = s.rxPending := rfl
@[simp] theorem complete_callers (k : CallerId) (r : Result) (s : State) : (complete k r s).callers = callersSet s.callers k .free := rfl
@[simp] theorem complete_txLog (k : CallerId) (r : Result) (s : State) : (complete k r s).txLog = s.txLog := rfl
@[simp] theorem complete_results (k : CallerId) (r : Result) (s : State) : (complete k r s).results = s.results ++ [(k, r)] := rfl
@[simp] theorem complete_inputs (k : CallerId) (r : Result) (s : State) : (complete k r s).inputs = s.inputs := rfl
@[simp] theorem complete_cur (k : CallerId) (r : Result) (s : State) : (complete k r s).cur = s.cur := rfl
@[simp] theorem complete_answer (k : CallerId) (r : Result) (s : State) : (complete k r s).answer = s.answer := rfl

@[simp] theorem raise_cfg (e : BusError) (s : State) : (raise e s).cfg = s.cfg := rfl
@[simp] theorem raise_phase (e : BusError) (s : State) : (raise e s).phase = s.phase := rfl
@[simp] theorem raise_lockOwner (e : BusError) (s : State) : (raise e s).lockOwner = s.lockOwner := rfl
@[simp] theorem raise_portOpen (e : BusError) (s : State) : (raise e s).portOpen = s.portOpen := rfl
@[simp] theorem raise_reqCmd (e : BusError) (s : State) : (raise e s).reqCmd = s.reqCmd := rfl
@[simp] theorem raise_reqAddr (e : BusError) (s : State) : (raise e s).reqAddr = s.reqAddr := rfl
@[simp] theorem raise_reqFc (e : BusError) (s : State) : (raise e s).reqFc = s.reqFc := rfl
@[simp] theorem raise_reqStart (e : BusError) (s : State) : (raise e s).reqStart = s.reqStart := rfl
@[simp] theorem raise_reqQty (e : BusError) (s : State) : (raise e s).reqQty = s.reqQty := rfl
@[simp] theorem raise_rxBuf (e : BusError) (s : State) : (raise e s).rxBuf = s.rxBuf := rfl
@[simp] theorem raise_rxExpect (e : BusError) (s : State) : (raise e s).rxExpect = s.rxExpect := rfl
@[simp] theorem raise_rxPending (e : BusError) (s : State) : (raise e s).rxPending = s.rxPending := rfl
@[simp] theorem raise_callers (e : BusError) (s : State) : (raise e s).callers = callersSet s.callers s.cur .free := rfl
@[simp] theorem raise_txLog (e : BusError) (s : State) : (raise e s).txLog = s.txLog := rfl
@[simp] theorem raise_results (e : BusError) (s : State) : (raise e s).results = s.results ++ [(s.cur, .err e)] := rfl
@[simp] theorem raise_inputs (e : BusError) (s : State) : (raise e s).inputs = s.inputs := rfl
@[simp] theorem raise_cur (e : BusError) (s : State) : (raise e s).cur = s.cur := rfl
@[simp] theorem raise_answer (e : BusError) (s : State) : (raise e s).answer = s.answer := rfl

@[simp] theorem endTransaction_cfg (s : State) : (endTransaction s).cfg = s.cfg := rfl
@[simp] theorem endTransaction_phase (s : State) : (endTransaction s).phase = .idle := rfl
@[simp] theorem endTransaction_lockOwner (s : State) : (endTransaction s).lockOwner = none := rfl
@[simp] theorem endTransaction_portOpen (s : State) : (endTransaction s).portOpen = s.portOpen := rfl
@[simp] theorem endTransaction_reqCmd (s : State) : (endTransaction s).reqCmd = s.reqCmd := rfl
@[simp] theorem endTransaction_reqAddr (s : State) : (endTransaction s).reqAddr = s.reqAddr := rfl
@[simp] theorem endTransaction_reqFc (s : State) : (endTransaction s).reqFc = s.reqFc := rfl
@[simp] theorem endTransaction_reqStart (s : State) : (endTransaction s).reqStart = s.reqStart := rfl
@[simp] theorem endTransaction_reqQty (s : State) : (endTransaction s).reqQty = s.reqQty := rfl
@[simp] theorem endTransaction_rxBuf (s : State) : (endTransaction s).rxBuf = [] := rfl
@[simp] theorem endTransaction_rxExpect (s : State) : (endTransaction s).rxExpect = none := rfl
@[simp] theorem endTransaction_rxPending (s : State) : (endTransaction s).rxPending = s.rxPending := rfl
@[simp] theorem endTransaction_callers (s : State) : (endTransaction s).callers = s.callers := rfl
@[simp] theorem endTransaction_txLog (s : State) : (endTransaction s).txLog = s.txLog := rfl
@[simp] theorem endTransaction_results (s : State) : (endTransaction s).results = s.results := rfl
@[simp] theorem endTransaction_inputs (s : State) : (endTransaction s).inputs = s.inputs := rfl
@[simp] theorem endTransaction_cur (s : State) : (endTransaction s).cur = s.cur := rfl
@[simp] theorem endTransaction_answer (s : State) : (endTransaction s).answer = s.answer := rfl

@[simp] theorem receiveByte_cfg (b : Byte) (s : State) : (receiveByte b s).cfg = s.cfg := rfl
@[simp] theorem receiveByte_phase (b : Byte) (s : State) : (receiveByte b s).phase = s.phase := rfl
@[simp] theorem receiveByte_lockOwner (b : Byte) (s : State) : (receiveByte b s).lockOwner = s.lockOwner := rfl
@[simp] theorem receiveByte_portOpen (b : Byte) (s : State) : (receiveByte b s).portOpen = s.portOpen := rfl
@[simp] theorem receiveByte_reqCmd (b : Byte) (s : State) : (receiveByte b s).reqCmd = s.reqCmd := rfl
@[simp] theorem receiveByte_reqAddr (b : Byte) (s : State) : (receiveByte b s).reqAddr = s.reqAddr := rfl
@[simp] theorem receiveByte_reqFc (b : Byte) (s : State) : (receiveByte b s).reqFc = s.reqFc := rfl
@[simp] theorem receiveByte_reqStart (b : Byte) (s : State) : (receiveByte b s).reqStart = s.reqStart := rfl
@[simp] theorem receiveByte_reqQty (b : Byte) (s : State) : (receiveByte b s).reqQty = s.reqQty := rfl
@[simp] theorem receiveByte_rxBuf (b : Byte) (s : State) : (receiveByte b s).rxBuf = s.rxBuf ++ [b] := rfl
@[simp] theorem receiveByte_rxExpect (b : Byte) (s : State) : (receiveByte b s).rxExpect = updateExpect s.cfg.excLength s.reqFc (s.rxBuf ++ [b]) s.rxExpect := rfl
@[simp] theorem receiveByte_rxPending (b : Byte) (s : State) : (receiveByte b s).rxPending = s.rxPending := rfl
@[simp] theorem receiveByte_callers (b : Byte) (s : State) : (receiveByte b s).callers = s.callers := rfl
@[simp] theorem receiveByte_txLog (b : Byte) (s : State) : (receiveByte b s).txLog = s.txLog := rfl
@[simp] theorem receiveByte_results (b : Byte) (s : State) : (receiveByte b s).results = s.results := rfl
@[simp] theorem receiveByte_inputs (b : Byte) (s : State) : (receiveByte b s).inputs = s.inputs := rfl
@[simp] theorem receiveByte_cur (b : Byte) (s : State) : (receiveByte b s).cur = s.cur := rfl
@[simp] theorem receiveByte_answer (b : Byte) (s : State) : (receiveByte b s).answer = s.answer := rfl

@[simp] theorem txFrame_cfg (frame : List Byte) (s : State) : (txFrame frame s).cfg = s.cfg := rfl
@[simp] theorem txFrame_phase (frame : List Byte) (s : State) : (txFrame frame s).phase = s.phase := rfl
@[simp] theorem txFrame_lockOwner (frame : List Byte) (s : State) : (txFrame frame s).lockOwner = s.lockOwner := rfl
@[simp] theorem txFrame_portOpen (frame : List Byte) (s : State) : (txFrame frame s).portOpen = s.portOpen := rfl
@[simp] theorem txFrame_reqCmd (frame : List Byte) (s : State) : (txFrame frame s).reqCmd = s.reqCmd := rfl
@[simp] theorem txFrame_reqAddr (frame : List Byte) (s : State) : (txFrame frame s).reqAddr = s.reqAddr := rfl
@[simp] theorem txFrame_reqFc (frame : List Byte) (s : State) : (txFrame frame s).reqFc = s.reqFc := rfl
@[simp] theorem txFrame_reqStart (frame : List Byte) (s : State) : (txFrame frame s).reqStart = s.reqStart := rfl
@[simp] theorem txFrame_reqQty (frame : List Byte) (s : State) : (txFrame frame s).reqQty = s.reqQty := rfl
@[simp] theorem txFrame_rxBuf (frame : List Byte) (s : State) : (txFrame frame s).rxBuf = s.rxBuf := rfl
@[simp] theorem txFrame_rxExpect (frame : List Byte) (s : State) : (txFrame frame s).rxExpect = s.rxExpect := rfl
@[simp] theorem txFrame_rxPending (frame : List Byte) (s : State) : (txFrame frame s).rxPending = s.rxPending := rfl
@[simp] theorem txFrame_callers (frame : List Byte) (s : State) : (txFrame frame s).callers = s.callers := rfl
@[simp] theorem txFrame_txLog (frame : List Byte) (s : State) : (txFrame frame s).txLog = s.txLog ++ [frame] := rfl
@[simp] theorem txFrame_results (frame : List Byte) (s : State) : (txFrame frame s).results = s.results := rfl
@[simp] theorem txFrame_inputs (frame : List Byte) (s : State) : (txFrame frame s).inputs = s.inputs := rfl
@[simp] theorem txFrame_cur (frame : List Byte) (s : State) : (txFrame frame s).cur = s.cur := rfl
@[simp] theorem txFrame_answer (frame : List Byte) (s : State) : (txFrame frame s).answer = s.answer := rfl

@[simp] theorem writeRequest_cfg (r : Request) (s : State) : (writeRequest r s).cfg = s.cfg := rfl
@[simp] theorem writeRequest_phase (r : Request) (s : State) : (writeRequest r s).phase = s.phase := rfl
@[simp] theorem writeRequest_lockOwner (r : Request) (s : State) : (writeRequest r s).lockOwner = s.lockOwner := rfl
@[simp] theorem writeRequest_portOpen (r : Request) (s : State) : (writeRequest r s).portOpen = s.portOpen := rfl
@[simp] theorem writeRequest_reqCmd (r : Request) (s : State) : (writeRequest r s).reqCmd = r.cmd := rfl
@[simp] theorem writeRequest_reqAddr (r : Request) (s : State) : (writeRequest r s).reqAddr = s.cfg.deviceAddr := rfl
@[simp] theorem writeRequest_reqFc (r : Request) (s : State) : (writeRequest r s).reqFc = r.fc := rfl
@[simp] theorem writeRequest_reqStart (r : Request) (s : State) : (writeRequest r s).reqStart = r.start := rfl
@[simp] theorem writeRequest_reqQty (r : Request) (s : State) : (writeRequest r s).reqQty = r.qty := rfl
@[simp] theorem writeRequest_rxBuf (r : Request) (s : State) : (writeRequest r s).rxBuf = s.rxBuf := rfl
@[simp] theorem writeRequest_rxExpect (r : Request) (s : State) : (writeRequest r s).rxExpect = s.rxExpect := rfl
@[simp] theorem writeRequest_rxPending (r : Request) (s : State) : (writeRequest r s).rxPending = s.rxPending := rfl
@[simp] theorem writeRequest_callers (r : Request) (s : State) : (writeRequest r s).callers = s.callers := rfl
@[simp] theorem writeRequest_txLog (r : Request) (s : State) : (writeRequest r s).txLog = s.txLog := rfl
@[simp] theorem writeRequest_results (r : Request) (s : State) : (writeRequest r s).results = s.results := rfl
@[simp] theorem writeRequest_inputs (r : Request) (s : State) : (writeRequest r s).inputs = s.inputs := rfl
@[simp] theorem writeRequest_cur (r : Request) (s : State) : (writeRequest r s).cur = s.cur := rfl
@[simp] theorem writeRequest_answer (r : Request) (s : State) : (writeRequest r s).answer = s.answer := rfl

@[simp] theorem serve_cfg (k : CallerId) (ans : EnvAnswer) (s : State) : (serve k ans s).cfg = s.cfg := rfl
@[simp] theorem serve_phase (k : CallerId) (ans : EnvAnswer) (s : State) : (serve k ans s).phase = s.phase := rfl
@[simp] theorem serve_lockOwner (k : CallerId) (ans : EnvAnswer) (s : State) : (serve k ans s).lockOwner = s.lockOwner := rfl
@[simp] theorem serve_portOpen (k : CallerId) (ans : EnvAnswer) (s : State) : (serve k ans s).portOpen = s.portOpen := rfl
@[simp] theorem serve_reqCmd (k : CallerId) (ans : EnvAnswer) (s : State) : (serve k ans s).reqCmd = s.reqCmd := rfl
@[simp] theorem serve_reqAddr (k : CallerId) (ans : EnvAnswer) (s : State) : (serve k ans s).reqAddr = s.reqAddr := rfl
@[simp] theorem serve_reqFc (k : CallerId) (ans : EnvAnswer) (s : State) : (serve k ans s).reqFc = s.reqFc := rfl
@[simp] theorem serve_reqStart (k : CallerId) (ans : EnvAnswer) (s : State) : (serve k ans s).reqStart = s.reqStart := rfl
@[simp] theorem serve_reqQty (k : CallerId) (ans : EnvAnswer) (s : State) : (serve k ans s).reqQty = s.reqQty := rfl
@[simp] theorem serve_rxBuf (k : CallerId) (ans : EnvAnswer) (s : State) : (serve k ans s).rxBuf = s.rxBuf := rfl
@[simp] theorem serve_rxExpect (k : CallerId) (ans : EnvAnswer) (s : State) : (serve k ans s).rxExpect = s.rxExpect := rfl
@[simp] theorem serve_rxPending (k : CallerId) (ans : EnvAnswer) (s : State) : (serve k ans s).rxPending = s.rxPending := rfl
@[simp] theorem serve_callers (k : CallerId) (ans : EnvAnswer) (s : State) : (serve k ans s).callers = s.callers := rfl
@[simp] theorem serve_txLog (k : CallerId) (ans : EnvAnswer) (s : State) : (serve k ans s).txLog = s.txLog := rfl
@[simp] theorem serve_results (k : CallerId) (ans : EnvAnswer) (s : State) : (serve k ans s).results = s.results := rfl
@[simp] theorem serve_inputs (k : CallerId) (ans : EnvAnswer) (s : State) : (serve k ans s).inputs = s.inputs := rfl
@[simp] theorem serve_cur (k : CallerId) (ans : EnvAnswer) (s : State) : (serve k ans s).cur = k := rfl
@[simp] theorem serve_answer (k : CallerId) (ans : EnvAnswer) (s : State) : (serve k ans s).answer = ans := rfl

end Sys2Proof.Machine
end

