-- ==== Sys2Proof/Laws/Ops.lean ====
section
/-! SUPPORT. The shared operations: for each, one lemma that says everything it can do. -/

namespace Sys2Proof.Machine

open Safety

/-! ### Delivering results -/

theorem complete_eq_answered (k : CallerId) (r : Result) (s : State) : complete k r s = answered k r s := rfl

theorem raise_eq_answered (e : BusError) (s : State) : raise e s = answered s.cur (.err e) s := rfl

/-- What `finish` does when the lock has an owner. -/
theorem finish_of_owner {s : State} {k : CallerId} (r : Result) (h : s.lockOwner = some k) : finish r s = ended k r s := by
  simp only [finish, completeOwner, h]; rfl

/-- What `finish` does when the lock is free: the decoder is emptied and the block idle. -/
theorem finish_of_free {s : State} (r : Result) (h : s.lockOwner = none) : finish r s = endTransaction s := by
  simp only [finish, completeOwner, h]

@[simp] theorem finish_phase (r : Result) (s : State) : (finish r s).phase = .idle := rfl
@[simp] theorem finish_lockOwner (r : Result) (s : State) : (finish r s).lockOwner = none := rfl
@[simp] theorem finish_rxBuf (r : Result) (s : State) : (finish r s).rxBuf = [] := rfl
@[simp] theorem finish_rxExpect (r : Result) (s : State) : (finish r s).rxExpect = none := rfl

/-- `finish` leaves every other register and port as it was. -/
theorem finish_frame (r : Result) (s : State) :
    (finish r s).cfg = s.cfg ∧ (finish r s).portOpen = s.portOpen ∧ (finish r s).reqCmd = s.reqCmd ∧
    (finish r s).reqAddr = s.reqAddr ∧ (finish r s).reqFc = s.reqFc ∧ (finish r s).reqStart = s.reqStart ∧
    (finish r s).reqQty = s.reqQty ∧ (finish r s).rxPending = s.rxPending ∧ (finish r s).txLog = s.txLog ∧
    (finish r s).inputs = s.inputs ∧ (finish r s).cur = s.cur ∧ (finish r s).answer = s.answer := by
  cases h : s.lockOwner with
  | none => simp [finish_of_free r h]
  | some k => simp [finish_of_owner r h, ended]

/-! ### Reading a response -/

/-- `update_expect()` keeps `RX_EXPECT` at what the bytes so far determine (42_relay_response.md R150 to R153). -/
theorem updateExpect_responseLength (policy : ExcLengthPolicy) (fc : Byte) (buf : List Byte) (b : Byte) :
    updateExpect policy fc (buf ++ [b]) (responseLength policy fc buf) = responseLength policy fc (buf ++ [b]) := by
  have hget : ∀ i, i < buf.length → byteAt (buf ++ [b]) i = byteAt buf i := fun i hi => by
    simp [byteAt, List.getD, List.getElem?_append_left hi]
  cases policy with
  | early =>
    simp only [updateExpect, expectEarly, responseLength, List.length_append, List.length_singleton, true_and]
    by_cases h1 : buf.length = 1
    · simp [h1]
    · by_cases h2 : buf.length = 2
      · have he : exceptionBit (buf ++ [b]) = exceptionBit buf := by simp [exceptionBit, hget 1 (by omega)]
        simp only [h2, he]
        by_cases hx : exceptionBit buf = true
        · simp [hx]
        · by_cases hf : fc = 1#8 <;> simp [hx, hf]
      · by_cases h3 : 2 ≤ buf.length
        · have h4 : 3 ≤ buf.length := by omega
          have he : exceptionBit (buf ++ [b]) = exceptionBit buf := by simp [exceptionBit, hget 1 (by omega)]
          rw [he, hget 2 (by omega)]
          have e1 : ¬ buf.length + 1 = 2 := by omega
          have e2 : ¬ buf.length + 1 = 3 := by omega
          have e3 : 1 ≤ buf.length := by omega
          have e4 : 3 ≤ buf.length + 1 := by omega
          simp [e1, e2, e3, h3, h4, e4]
        · have h0 : buf.length = 0 := by omega
          simp [h0]
  | literal =>
    simp only [updateExpect, expectLiteral, responseLength, List.length_append, List.length_singleton, reduceCtorEq, false_and, if_false]
    by_cases hf : fc = 1#8
    · by_cases h2 : buf.length = 2
      · simp [h2, hf]
      · have e : ¬ buf.length + 1 = 3 := by omega
        by_cases h3 : 3 ≤ buf.length
        · have h4 : 3 ≤ buf.length + 1 := by omega
          rw [hget 2 (by omega)]
          simp [hf, e, h3, h4]
        · have h4 : ¬ 3 ≤ buf.length + 1 := by omega
          simp [hf, e, h3, h4]
    · simp [hf]

/-- Past the header a byte leaves `RX_EXPECT` as it is (42_relay_response.md R152, R153). -/
theorem receiveByte_past_header {s : State} (b : Byte) (h : 3 ≤ s.rxBuf.length) :
    receiveByte b s = { s with rxBuf := s.rxBuf ++ [b] } := by
  have e2 : ¬ s.rxBuf.length + 1 = 2 := by omega
  have e3 : ¬ s.rxBuf.length + 1 = 3 := by omega
  have : updateExpect s.cfg.excLength s.reqFc (s.rxBuf ++ [b]) s.rxExpect = s.rxExpect := by
    cases s.cfg.excLength <;>
      simp only [updateExpect, expectEarly, expectLiteral, List.length_append, List.length_singleton, e2, e3, false_and, if_false]
  unfold receiveByte
  rw [this]

/-- A known response length is 5 to 260 (10_state.md R20). -/
theorem responseLength_bounds {policy : ExcLengthPolicy} {fc : Byte} {buf : List Byte} {n : Nat}
    (h : responseLength policy fc buf = some n) : 5 ≤ n ∧ n ≤ 260 := by
  have hb : (byteAt buf 2).toNat < 256 := (byteAt buf 2).isLt
  unfold responseLength at h
  split at h
  · injection h with h; omega
  · split at h
    · split at h
      · injection h with h; omega
      · cases h
    · injection h with h; omega

/-- The length is unknown only for 0x01 before its header is in. -/
theorem responseLength_none {policy : ExcLengthPolicy} {fc : Byte} {buf : List Byte}
    (h : responseLength policy fc buf = none) : fc = fcReadCoils ∧ buf.length < 3 := by
  unfold responseLength at h
  split at h
  · cases h
  · split at h
    · split at h
      · cases h
      · exact ⟨by assumption, by omega⟩
    · cases h

theorem responseLength_nil (policy : ExcLengthPolicy) (fc : Byte) :
    responseLength policy fc [] = if fc = fcReadCoils then none else some 8 := by
  simp [responseLength]

theorem byteAt_appendCrc (body : List Byte) {i : Nat} (h : i < body.length) :
    byteAt (appendCrc body) i = body.getD i 0 := by
  simp [byteAt, appendCrc, List.getD, List.getElem?_append_left h]

/-- Check 1 fails (42_relay_response.md R155). -/
theorem verdict_crc {addr fc : Byte} {qty : Half} {f : List Byte} (h : crcValid f = false) :
    verdict addr fc qty f = .err (.protocol .crcMismatch f) :=
  if_pos h

/-- Check 2 fails (42_relay_response.md R156). -/
theorem verdict_address {addr fc : Byte} {qty : Half} {f : List Byte} (h1 : crcValid f = true) (h2 : byteAt f 0 ≠ addr) :
    verdict addr fc qty f = .err (.protocol .addressMismatch f) := by
  unfold verdict
  rw [if_neg (by simp [h1]), if_pos h2]

/-- Check 3 finds an exception reply (42_relay_response.md R157). -/
theorem verdict_exception {addr fc : Byte} {qty : Half} {f : List Byte} (h1 : crcValid f = true) (h2 : byteAt f 0 = addr)
    (h3 : exceptionBit f = true) : verdict addr fc qty f = resultException fc f := by
  unfold verdict
  rw [if_neg (by simp [h1]), if_neg (by simp [h2]), if_pos h3]

/-- Check 4 fails (42_relay_response.md R158). -/
theorem verdict_function {addr fc : Byte} {qty : Half} {f : List Byte} (h1 : crcValid f = true) (h2 : byteAt f 0 = addr)
    (h3 : exceptionBit f = false) (h4 : byteAt f 1 ≠ fc) : verdict addr fc qty f = .err (.protocol .functionMismatch f) := by
  unfold verdict
  rw [if_neg (by simp [h1]), if_neg (by simp [h2]), if_neg (by simp [h3]), if_pos h4]

/-- Checks 1 to 4 pass: the format's own result (42_relay_response.md R159 to R162). -/
theorem verdict_result {addr fc : Byte} {qty : Half} {f : List Byte} (h1 : crcValid f = true) (h2 : byteAt f 0 = addr)
    (h3 : exceptionBit f = false) (h4 : byteAt f 1 = fc) :
    verdict addr fc qty f =
      if fc = fcReadCoils then resultReadCoils qty f
      else if fc = fcWriteSingleCoil then resultWriteSingle else resultWriteMultiple := by
  unfold verdict
  rw [if_neg (by simp [h1]), if_neg (by simp [h2]), if_neg (by simp [h3]), if_neg (by simp [h4])]

/-- `interpret()` ends the transaction with the verdict on the frame. -/
theorem interpret_eq (frame : List Byte) (s : State) :
    interpret frame s = finish (verdict s.reqAddr s.reqFc s.reqQty frame) s := rfl

/-- Everything `RxByte` does while a response is awaited: it buffers the byte, or it ends the transaction. -/
theorem awaitByte_cases (b : Byte) (s : State) :
    frameComplete (receiveByte b s) = false ∧ awaitByte b s = receiveByte b s ∨
      frameComplete (receiveByte b s) = true ∧
        awaitByte b s = finish (verdict s.reqAddr s.reqFc s.reqQty (s.rxBuf ++ [b])) (receiveByte b s) := by
  unfold awaitByte
  cases h : frameComplete (receiveByte b s)
  · exact .inl ⟨rfl, by simp [h]⟩
  · exact .inr ⟨rfl, by simp [h, interpret]⟩

/-- What `RxByte` leaves alone while a response is awaited. -/
theorem awaitByte_frame (b : Byte) (s : State) :
    (awaitByte b s).cfg = s.cfg ∧ (awaitByte b s).portOpen = s.portOpen ∧ (awaitByte b s).reqCmd = s.reqCmd ∧
    (awaitByte b s).reqAddr = s.reqAddr ∧ (awaitByte b s).reqFc = s.reqFc ∧ (awaitByte b s).reqStart = s.reqStart ∧
    (awaitByte b s).reqQty = s.reqQty ∧ (awaitByte b s).rxPending = s.rxPending ∧ (awaitByte b s).txLog = s.txLog ∧
    (awaitByte b s).inputs = s.inputs ∧ (awaitByte b s).cur = s.cur ∧ (awaitByte b s).answer = s.answer := by
  rcases awaitByte_cases b s with ⟨-, h⟩ | ⟨-, h⟩ <;> rw [h]
  · simp
  · have := finish_frame (verdict s.reqAddr s.reqFc s.reqQty (s.rxBuf ++ [b])) (receiveByte b s)
    simpa using this

/-- A byte outside a transaction: `RX_PENDING` takes it under `KEEP` in `IDLE`, nothing else changes (42_relay_response.md R165). -/
theorem strayByte_eq (b : Byte) (s : State) :
    strayByte b s = if s.cfg.idleRx = .keep ∧ s.phase = .idle then { s with rxPending := s.rxPending ++ [b] } else s := by
  unfold strayByte
  cases h : s.cfg.idleRx <;> cases h' : s.phase <;> simp

theorem strayBytes_eq (bytes : List Byte) (s : State) :
    strayBytes bytes s =
      if s.cfg.idleRx = .keep ∧ s.phase = .idle then { s with rxPending := s.rxPending ++ bytes } else s := by
  induction bytes generalizing s with
  | nil => simp [strayBytes]
  | cons b rest ih =>
    rw [strayBytes, ih, strayByte_eq]
    by_cases h : s.cfg.idleRx = .keep ∧ s.phase = .idle
    · simp [h]
    · simp only [h, if_false]

/-- What the feeding of kept bytes leaves alone, whatever it does to the decoder, the lock, the callers and the results. -/
theorem feedPending_frame (bytes : List Byte) (s : State) :
    (feedPending bytes s).cfg = s.cfg ∧ (feedPending bytes s).portOpen = s.portOpen ∧ (feedPending bytes s).reqCmd = s.reqCmd ∧
    (feedPending bytes s).reqAddr = s.reqAddr ∧ (feedPending bytes s).reqFc = s.reqFc ∧
    (feedPending bytes s).reqStart = s.reqStart ∧ (feedPending bytes s).reqQty = s.reqQty ∧
    (feedPending bytes s).txLog = s.txLog ∧ (feedPending bytes s).inputs = s.inputs ∧
    (feedPending bytes s).cur = s.cur ∧ (feedPending bytes s).answer = s.answer := by
  induction bytes generalizing s with
  | nil => simp [feedPending]
  | cons b rest ih =>
    unfold feedPending
    split
    · obtain ⟨h1, h2, h3, h4, h5, h6, h7, -, h9, h10, h11, h12⟩ := awaitByte_frame b s
      obtain ⟨g1, g2, g3, g4, g5, g6, g7, g8, g9, g10, g11⟩ := ih (awaitByte b s)
      exact ⟨g1.trans h1, g2.trans h2, g3.trans h3, g4.trans h4, g5.trans h5, g6.trans h6, g7.trans h7, g8.trans h9,
        g9.trans h10, g10.trans h11, g11.trans h12⟩
    · simp

/-- Feeding is an induction: what holds while a response is awaited, and is kept by a byte and by setting bytes aside, holds after. -/
theorem feedPending_induction {P : State → Prop} (bytes : List Byte) (s : State) (h : P s)
    (byte : ∀ b s, s.phase = .awaitRsp → P s → P (awaitByte b s))
    (aside : ∀ (rest : List Byte) (s : State), s.phase ≠ .awaitRsp → P s → P { s with rxPending := rest ++ s.rxPending }) :
    P (feedPending bytes s) := by
  induction bytes generalizing s with
  | nil => exact h
  | cons b rest ih =>
    unfold feedPending
    split
    · exact ih _ (byte b s (by assumption) h)
    · exact aside (b :: rest) s (by assumption) h

/-! ### Sending a request -/

/-- `decoder_start()`: with nothing kept the decoder is empty and waiting; under `KEEP` the kept bytes are fed to it. -/
theorem decoderStart_cases (s : State) :
    s.cfg.idleRx = .discard ∧
        decoderStart s = { s with rxBuf := [], rxExpect := if s.reqFc = fcReadCoils then none else some 8, phase := .awaitRsp } ∨
      s.cfg.idleRx = .keep ∧
        decoderStart s = feedPending s.rxPending
          { s with rxBuf := [], rxExpect := if s.reqFc = fcReadCoils then none else some 8, phase := .awaitRsp, rxPending := [] } := by
  unfold decoderStart
  cases h : s.cfg.idleRx
  · exact .inl ⟨rfl, by simp⟩
  · exact .inr ⟨rfl, by simp⟩

/-- Everything a transmission can do: the frame goes out whole and the decoder starts, or its first bytes go out and the
transaction is over. -/
theorem transmit_cases (c : BusCommand) (frame : List Byte) (s : State) :
    (s.answer.sending = .sent ∧
      transmit c frame s = decoderStart { s with
        lockOwner := some s.cur, callers := callersSet s.callers s.cur (.inflight c), txLog := s.txLog ++ [frame] }) ∨
    ∃ j, s.answer.sending = .writeTimeout j ∧
      transmit c frame s = ended s.cur (.err (.timeoutWrite (min j frame.length))) { s with
        callers := callersSet s.callers s.cur (.inflight c)
        txLog := if 0 < min j frame.length then s.txLog ++ [frame.take (min j frame.length)] else s.txLog } := by
  unfold transmit
  cases h : s.answer.sending with
  | sent => exact .inl ⟨rfl, by simp [txFrame]⟩
  | writeTimeout j =>
    refine .inr ⟨j, rfl, ?_⟩
    simp only
    rw [finish_of_owner (k := s.cur) _ (by split <;> rfl)]
    split <;> rfl

/-- Everything the sending of a request can do: it is refused with an error, held on the lock, or transmitted. -/
theorem sendRequest_cases (c : BusCommand) (r : Request) (s : State) :
    (s.phase = .disposed ∧ sendRequest c r s = raise (.connection .disposed) s) ∨
    (s.phase = .awaitRsp ∧ sendRequest c r s = s.setCaller s.cur (.held (.bus c))) ∨
    (s.phase = .idle ∧ s.portOpen = false ∧ s.answer.opening = .openFail ∧
      sendRequest c r s = raise (.connection .openFailed) s) ∨
    (s.phase = .idle ∧ (s.portOpen = true ∨ s.answer.opening = .openOk) ∧
      sendRequest c r s = transmit c r.frame (writeRequest r { s with portOpen := true })) := by
  unfold sendRequest
  cases h : s.phase
  · cases hp : s.portOpen <;> cases ho : s.answer.opening <;> simp
  · simp
  · simp

/-- Everything a presented bus command can do: it fails its argument check, finds the block disabled, or goes on to be sent. -/
theorem presentBus_cases (c : BusCommand) (r : Request) (s : State) :
    (∃ sub, argError c = some sub ∧ presentBus c r s = raise (.argument sub) s) ∨
    (argError c = none ∧ s.cfg.enabled = false ∧ presentBus c r s = raise .configDisabled s) ∨
    (argError c = none ∧ s.cfg.enabled = true ∧ presentBus c r s = sendRequest c r s) := by
  unfold presentBus
  cases h : argError c
  · cases he : s.cfg.enabled <;> simp
  · simp

theorem argError_eq_none (c : BusCommand) : argError c = none ↔ legalArgs c := by
  cases c with
  | readCoils start count =>
    simp only [argError, legalArgs]
    split
    · simp; omega
    · split
      · simp; omega
      · split <;> simp <;> omega
  | readAll => simp [argError, legalArgs]
  | setChannel channel on =>
    simp only [argError, legalArgs]
    split <;> simp <;> omega
  | setAll states =>
    simp only [argError, legalArgs]
    split <;> simp_all

end Sys2Proof.Machine
end

