-- ==== Sys2Proof/Laws/Events.lean ====
section
/-! SUPPORT. What each event does, and the one inversion lemma of the step. -/

namespace Sys2Proof.Machine

open Safety

theorem runPresent_free {k : CallerId} {s : State} (c : Command) (ans : EnvAnswer) (h : s.callerOf k = .free) :
    runPresent k c ans s = exec (commandInstr c) (serve k ans s) :=
  if_pos h

theorem runPresent_busy {k : CallerId} {s : State} (c : Command) (ans : EnvAnswer) (h : s.callerOf k ≠ .free) :
    runPresent k c ans s = .refused .callerBusy :=
  if_neg h

theorem runTakeUp_held {k : CallerId} {s : State} {c : HeldCommand} (ans : EnvAnswer) (h : s.callerOf k = .held c) :
    runTakeUp k ans s = exec (resumeInstr c) (serve k ans s) := by
  simp only [runTakeUp, h]

/-- A caller that is not held has nothing to take up. -/
theorem runTakeUp_not_held {k : CallerId} {s : State} (ans : EnvAnswer) (h : ∀ c, s.callerOf k ≠ .held c) :
    runTakeUp k ans s = .next s := by
  unfold runTakeUp
  cases hc : s.callerOf k with
  | free => rfl
  | held c => exact absurd hc (h c)
  | inflight c => rfl

/-- The request a bus command sends: its registers (41_relay_commands.md R128) and its frame. -/
def requestOf (addr : Byte) : BusCommand → Request
  | .readCoils start count =>
    ⟨.readCoils, fcReadCoils, narrow16 start, narrow16 count, frameReadCoils addr (narrow16 start) (narrow16 count)⟩
  | .readAll => ⟨.readAll, fcReadCoils, 0, 8, frameReadCoils addr 0 8⟩
  | .setChannel channel on =>
    ⟨.setChannel, fcWriteSingleCoil, narrow16 (channel - 1), 1, frameSetChannel addr ((narrow16 (channel - 1)).setWidth 3) on⟩
  | .setAll states => ⟨.setAll, fcWriteMultipleCoils, 0, 8, frameSetAll addr (pack states)⟩

/-- A presented bus command is `presentBus` with its request. -/
theorem exec_busInstr (c : BusCommand) (s : State) :
    exec (busInstr c) s = .next (presentBus c (requestOf s.cfg.deviceAddr c) s) := by
  cases c <;> rfl

/-- A request frame instruction sends some request from step 3 of 41_relay_commands.md R120 on. -/
theorem exec_resumeInstr_bus (c : BusCommand) (s : State) :
    ∃ c' r, exec (resumeInstr (.bus c)) s = .next (sendRequest c' r s) := by
  cases c <;> exact ⟨_, _, rfl⟩

/-- A complete frame, decodable or not, ends the transaction with the verdict on it (42_relay_response.md R154). -/
theorem receiveFrame_await {s : State} (frame : List Byte) (h : s.phase = .awaitRsp) :
    receiveFrame frame s = interpret frame s :=
  if_pos h

theorem receiveFrame_stray {s : State} (frame : List Byte) (h : s.phase ≠ .awaitRsp) :
    receiveFrame frame s = strayBytes frame s :=
  if_neg h

/-! ### Runs -/

@[simp] theorem runSteps_zero (s : State) : runSteps 0 s = .next s := rfl

/-- Some steps peel off the first. -/
theorem runSteps_succ {s t : State} (n : Nat) (h : step s = .next t) : runSteps (n + 1) s = runSteps n t := by
  simp only [runSteps, h]

/-- `runSteps` is the host's own run of the machine. -/
theorem runSteps_eq_core (n : Nat) (s : State) : runSteps n s = core.run n s := by
  induction n generalizing s with
  | zero => rfl
  | succ n ih =>
    cases h : step s with
    | next t =>
      have h' : core.step s = .next t := h
      simp only [runSteps, h, Host.Core.run, h', ih]; rfl
    | fault r =>
      have h' : core.step s = .fault r := h
      simp only [runSteps, h, Host.Core.run, h']; rfl
    | refused r =>
      have h' : core.step s = .refused r := h
      simp only [runSteps, h, Host.Core.run, h']; rfl

end Sys2Proof.Machine
end

