-- ==== Sys2Proof/Laws/PerInstr.lean ====
section
/-! SUPPORT. A fact about every instruction as syntax: how long the frame of a well-formed instruction is. -/

/-- A well-formed request or response frame has 5 to 260 bytes (10_state.md R31, 30_encoding.md R82). -/
def Sys2Proof.Laws.FrameLength.Statement (i : Sys2Proof.Instr) : Prop :=
  i.wf = true → ∀ (addr : Sys2Proof.Byte) (frame : List Sys2Proof.Byte),
    Sys2Proof.encode addr i = some frame → 5 ≤ frame.length ∧ frame.length ≤ 260

namespace Sys2Proof.Laws.FrameLength

open Machine

theorem readCoilsRequest (start qty : Half) : Statement (.readCoilsRequest start qty) := by
  intro _ addr frame h
  simp only [encode, Option.some.injEq] at h
  subst h
  simp [frameReadCoils, field16]

theorem setChannelRequest (coil : BitVec 3) (on : Bool) : Statement (.setChannelRequest coil on) := by
  intro _ addr frame h
  simp only [encode, Option.some.injEq] at h
  subst h
  simp [frameSetChannel, field16]

theorem setAllRequest (data : Byte) : Statement (.setAllRequest data) := by
  intro _ addr frame h
  simp only [encode, Option.some.injEq] at h
  subst h
  simp [frameSetAll]

theorem readCoilsResponse (addr : Byte) (data : List Byte) : Statement (.readCoilsResponse addr data) := by
  intro hw _ frame h
  simp only [encode, Option.some.injEq] at h
  subst h
  simp only [Instr.wf, decide_eq_true_eq] at hw
  simp [frameReadResponse]
  omega

theorem writeSingleCoilResponse (addr b2 b3 b4 b5 : Byte) : Statement (.writeSingleCoilResponse addr b2 b3 b4 b5) := by
  intro _ _ frame h
  simp only [encode, Option.some.injEq] at h
  subst h
  simp [frameWriteSingleResponse]

theorem writeMultipleCoilsResponse (addr b2 b3 b4 b5 : Byte) : Statement (.writeMultipleCoilsResponse addr b2 b3 b4 b5) := by
  intro _ _ frame h
  simp only [encode, Option.some.injEq] at h
  subst h
  simp [frameWriteMultipleResponse]

theorem exceptionResponse (addr : Byte) (fc : BitVec 7) (code : Byte) (extra : List Byte) :
    Statement (.exceptionResponse addr fc code extra) := by
  intro hw _ frame h
  simp only [encode, Option.some.injEq] at h
  subst h
  have hc := code.isLt
  simp only [Instr.wf, Bool.or_eq_true, decide_eq_true_eq] at hw
  simp [frameException]
  omega

theorem crcCompute (bytes : List Byte) (length : Int) : Statement (.crcCompute bytes length) := by
  intro _ _ frame h
  cases h

theorem crcValidate (frame : List Byte) : Statement (.crcValidate frame) := by
  intro _ _ frame h
  cases h

theorem readCoils (start count : Int) : Statement (.readCoils start count) := by
  intro _ _ frame h
  cases h

theorem readAll : Statement .readAll := by
  intro _ _ frame h
  cases h

theorem setChannel (channel : Int) (on : Bool) : Statement (.setChannel channel on) := by
  intro _ _ frame h
  cases h

theorem setAll (states : List Bool) : Statement (.setAll states) := by
  intro _ _ frame h
  cases h

theorem dispose : Statement .dispose := by
  intro _ _ frame h
  cases h

end Sys2Proof.Laws.FrameLength
end

