-- ==== Sys2Proof/Tests/Slice0.lean ====
section
/-! SUPPORT. Tests. Expected values are those of spec/95_test_vectors.md; well-formedness follows the ranges of 30_encoding.md, the words those of spec/opcode_table.json. After the tests stand the witnesses: for each obligation with hypotheses, concrete values that meet them together. -/

namespace Sys2Proof.Tests

open Machine Safety

/-! Kernel evaluations side by side would each take a thread of their own. -/

set_option Elab.async false

/-! ### Helpers -/

/-- The state after an outcome. -/
def out : Host.Outcome State Fault Refusal → State
  | .next t => t
  | .fault _ => State.reset
  | .refused _ => State.reset

/-- After reset, enabled, at address 0x01. -/
def fresh : State := State.resetWith { Config.default with enabled := true }

/-- `fresh` with the port open. -/
def opened : State := { fresh with portOpen := true }

/-- `fresh` after disposal. -/
def gone : State := { fresh with phase := .disposed }

/-- Caller 0 waits for the response to `c`, whose request registers are given. -/
def waiting (c : BusCommand) (cmd : ReqCmd) (fc : Byte) (start qty : Half) : State :=
  { opened with
    phase := .awaitRsp, lockOwner := some 0, callers := [(0, .inflight c)]
    reqCmd := cmd, reqAddr := 0x01, reqFc := fc, reqStart := start, reqQty := qty
    rxExpect := if fc = 0x01 then none else some 8 }

/-- Caller 0 waits after `READ_ALL`. -/
def waitAll : State := waiting .readAll .readAll 0x01 0 8

/-- Caller 0 waits after `SET_CHANNEL 1, on`. -/
def waitOne : State := waiting (.setChannel 1 true) .setChannel 0x05 0 1

/-- Caller 0 waits after `SET_ALL 10100000`. -/
def waitSet : State := waiting (.setAll [true, false, true, false, false, false, false, false]) .setAll 0x0F 0 8

/-- The same state with other events to come. -/
def next (e : List Event) (s : State) : State := { s with inputs := e }

/-- The same state with the policies changed. -/
def withPolicy (x : ExcLengthPolicy) (p : IdleRxPolicy) (s : State) : State :=
  { s with cfg := { s.cfg with excLength := x, idleRx := p } }

/-- The same state with the block's address changed. -/
def withAddress (a : Byte) (s : State) : State := { s with cfg := { s.cfg with deviceAddr := a } }

/-- `Config.default` with `ENABLED = false`, the port open. -/
def disabled : State := { State.reset with portOpen := true }

def ok : EnvAnswer := ⟨.openOk, .sent⟩

/-! ### Well-formedness -/

theorem test_wf_count_zero : (Instr.readCoilsRequest 0 0).wf = false := by decide
theorem test_wf_count_2001 : (Instr.readCoilsRequest 0 2001).wf = false := by decide
theorem test_wf_count_2000 : (Instr.readCoilsRequest 65535 2000).wf = true := by decide
theorem test_wf_data_256 : (Instr.readCoilsResponse 0x01 (List.replicate 256 0)).wf = false := by decide +kernel
theorem test_wf_data_255 : (Instr.readCoilsResponse 0x01 (List.replicate 255 0)).wf = true := by decide +kernel
theorem test_wf_exception_extra : (Instr.exceptionResponse 0x01 5 2 [0]).wf = false := by decide
theorem test_wf_exception_literal : (Instr.exceptionResponse 0x01 5 2 [0xC3, 0x51, 0x00]).wf = true := by decide

/-! ### Checksum -/

theorem test_crc_check_value : crc16 [0x31, 0x32, 0x33, 0x34, 0x35, 0x36, 0x37, 0x38, 0x39] = 0x4B37 := by decide +kernel
theorem test_crc_low_byte_first : appendCrc [0x01] = [0x01, 0x7E, 0x80] := by decide +kernel
theorem test_crc_whole_frame : crc16 [0x01, 0x05, 0x00, 0x00, 0xFF, 0x00, 0x8C, 0x3A] = 0 := by decide +kernel

/-! ### Decoding written words, and their encoding -/

theorem test_decode_read_request :
    decodeRequest 0x11 [0x11, 0x01, 0x00, 0x13, 0x00, 0x25, 0x0E, 0x84] = .ok (.readCoilsRequest 0x13 0x25) := by decide +kernel
theorem test_decode_set_channel_request :
    decodeRequest 0x01 [0x01, 0x05, 0x00, 0x05, 0xFF, 0x00, 0x9C, 0x3B] = .ok (.setChannelRequest 5 true) := by decide +kernel
theorem test_decode_set_all_request :
    decodeRequest 0x01 [0x01, 0x0F, 0x00, 0x00, 0x00, 0x08, 0x01, 0xAA, 0x7E, 0xEA] = .ok (.setAllRequest 0xAA) := by decide +kernel
theorem test_decode_read_response :
    decodeResponse 0x01 [0x01, 0x01, 0x02, 0x34, 0x12, 0x2F, 0x31] = .ok (.readCoilsResponse 0x01 [0x34, 0x12]) := by decide +kernel
theorem test_decode_write_single_response :
    decodeResponse 0x05 [0x01, 0x05, 0x00, 0x02, 0xFF, 0x00, 0x2D, 0xFA] =
      .ok (.writeSingleCoilResponse 0x01 0x00 0x02 0xFF 0x00) := by decide +kernel
theorem test_decode_write_multiple_response :
    decodeResponse 0x0F [0x01, 0x0F, 0x00, 0x00, 0x00, 0x08, 0x54, 0x0D] =
      .ok (.writeMultipleCoilsResponse 0x01 0x00 0x00 0x00 0x08) := by decide +kernel
theorem test_decode_exception_response :
    decodeResponse 0x05 [0x01, 0x85, 0x04, 0x43, 0x53] = .ok (.exceptionResponse 0x01 0x05 0x04 []) := by decide +kernel
theorem test_decode_bad_crc :
    decodeResponse 0x01 [0x01, 0x01, 0x01, 0x05, 0x91, 0x8C] = .error .crcMismatch := by decide +kernel
theorem test_decode_foreign_address :
    decodeRequest 0x01 [0x11, 0x01, 0x00, 0x13, 0x00, 0x25, 0x0E, 0x84] = .error .foreignAddress := by decide +kernel
theorem test_decode_wrong_function :
    decodeResponse 0x05 [0x01, 0x0F, 0x00, 0x00, 0x00, 0x08, 0x54, 0x0D] = .error .functionMismatch := by decide +kernel
/-- The bytes and their CRC are computed by hand from 30_encoding.md R77: `BC` says 2, one byte follows. -/
theorem test_decode_byte_count :
    decodeResponse 0x01 (appendCrc [0x01, 0x01, 0x02, 0x05]) = .error .byteCountMismatch := by decide +kernel
/-- 30_encoding.md R74: the coil address high byte is 0. -/
theorem test_decode_bad_shape :
    decodeRequest 0x01 (appendCrc [0x01, 0x05, 0x01, 0x00, 0xFF, 0x00]) = .error .badShape := by decide +kernel
theorem test_encode_set_all : encode 0x01 (.setAllRequest 0x80) =
    some [0x01, 0x0F, 0x00, 0x00, 0x00, 0x08, 0x01, 0x80, 0xFF, 0x35] := by decide +kernel

/-! ### The words of spec/opcode_table.json -/

theorem test_word_read_request : decodeTableWord 16 0x101 = some (.readCoilsRequest 0 0) := by decide +kernel
theorem test_word_read_response : decodeTableWord 8 0x01 = some (.readCoilsResponse 0 []) := by decide +kernel
theorem test_word_write_single : decodeTableWord 16 0x105 = some (.writeSingleCoilResponse 0 0 0 0 0) := by decide +kernel
theorem test_word_set_all_request : decodeTableWord 8 0x0F = some (.setAllRequest 0) := by decide +kernel
theorem test_word_write_multiple : decodeTableWord 16 0x10F = some (.writeMultipleCoilsResponse 0 0 0 0 0) := by decide +kernel
theorem test_word_exception : decodeTableWord 8 0x80 = some (.exceptionResponse 0 0 0 []) := by decide +kernel
theorem test_word_unknown : decodeTableWord 8 0x03 = none := by decide +kernel
theorem test_fetch_read_request : (out (step (State.reset.withFetchWord 16 0x101))).txLog =
    [appendCrc [0x01, 0x01, 0x00, 0x00, 0x00, 0x00]] := by decide +kernel
theorem test_fetch_exception : (out (step (State.reset.withFetchWord 8 0x80))).phase = .idle := by decide +kernel

/-! ### Each instruction -/

theorem test_crc_compute_bytes_ignored :
    (out (exec (.crcCompute [0x01, 0x05, 0x00, 0x00, 0xFF, 0x00, 0x8C, 0x3A] 6) gone)).results = [(0, .ok (.crc 0x3A8C))] := by decide +kernel
theorem test_crc_compute_bad_length :
    (out (exec (.crcCompute [0x01, 0x02] 3) fresh)).results = [(0, .err (.argument .badLength))] := by decide +kernel
theorem test_crc_validate_true : (out (exec (.crcValidate [0x01, 0x7E, 0x80]) fresh)).results = [(0, .ok (.bool true))] := by decide +kernel
theorem test_crc_validate_swapped : (out (exec (.crcValidate [0x01, 0x80, 0x7E]) fresh)).results = [(0, .ok (.bool false))] := by decide +kernel

theorem test_read_coils_no_overflow_check : (out (exec (.readCoils 65535 2000) fresh)).txLog =
    [[0x01, 0x01, 0xFF, 0xFF, 0x07, 0xD0, 0x3F, 0x82]] := by decide +kernel
theorem test_read_coils_count_first : (out (exec (.readCoils (-1) 0) disabled)).results =
    [(0, .err (.argument .countRange))] := by decide +kernel
theorem test_read_all_frame : (out (exec .readAll (withAddress 0xFF fresh))).txLog =
    [[0xFF, 0x01, 0x00, 0x00, 0x00, 0x08, 0x28, 0x12]] := by decide +kernel
theorem test_read_all_disabled : (out (exec .readAll State.reset)).results = [(0, .err .configDisabled)] := by decide +kernel
theorem test_set_channel_frame : (out (exec (.setChannel 8 false) fresh)).txLog =
    [[0x01, 0x05, 0x00, 0x07, 0x00, 0x00, 0x7C, 0x0B]] := by decide +kernel
theorem test_set_channel_range : (out (exec (.setChannel 9 true) gone)).results =
    [(0, .err (.argument .channelRange))] := by decide +kernel
theorem test_set_all_frame : (out (exec (.setAll [true, false, true, false, false, false, false, false]) fresh)).txLog =
    [[0x01, 0x0F, 0x00, 0x00, 0x00, 0x08, 0x01, 0x05, 0x3E, 0x96]] := by decide +kernel
theorem test_set_all_length : (out (exec (.setAll [true, false, true, false, false, false, false]) fresh)).results =
    [(0, .err (.argument .statesLength))] := by decide +kernel

theorem test_read_request_registers : (out (exec (.readCoilsRequest 0x13 0x25) (withAddress 0x11 fresh))).txLog =
    [[0x11, 0x01, 0x00, 0x13, 0x00, 0x25, 0x0E, 0x84]] := by decide +kernel
theorem test_read_request_held : (out (exec (.readCoilsRequest 0 8) { waitOne with cur := 1 })).callerOf 1 =
    .held (.bus (.readCoils 0 8)) := by decide +kernel
theorem test_set_channel_request : (out (exec (.setChannelRequest 1 true) fresh)).txLog =
    [[0x01, 0x05, 0x00, 0x01, 0xFF, 0x00, 0xDD, 0xFA]] := by decide +kernel
theorem test_set_channel_request_caller : (out (exec (.setChannelRequest 7 false) fresh)).callerOf 0 =
    .inflight (.setChannel 8 false) := by decide +kernel
theorem test_set_all_request : (out (exec (.setAllRequest 0x07) fresh)).txLog =
    [[0x01, 0x0F, 0x00, 0x00, 0x00, 0x08, 0x01, 0x07, 0xBF, 0x57]] := by decide +kernel
theorem test_set_all_request_disposed : (out (exec (.setAllRequest 0xFF) gone)).results =
    [(0, .err (.connection .disposed))] := by decide +kernel

theorem test_read_response_coils :
    (out (exec (.readCoilsResponse 0x01 [0x34, 0x12]) (waiting (.readCoils 0 16) .readCoils 0x01 0 16))).results =
      [(0, .ok (.coils [false, false, true, false, true, true, false, false, false, true, false, false, true, false, false, false]))] := by
  decide +kernel
theorem test_read_response_byte_count : (out (exec (.readCoilsResponse 0x01 [0xFF, 0x03]) waitAll)).results =
    [(0, .err (.protocol .byteCountMismatch [0x01, 0x01, 0x02, 0xFF, 0x03, 0xB8, 0x0D]))] := by decide +kernel
theorem test_write_single_unchecked_bytes : (out (exec (.writeSingleCoilResponse 0x01 0x00 0x02 0xFF 0x00) waitOne)).results =
    [(0, .ok .unit)] := by decide +kernel
theorem test_write_single_after_set_all : (out (exec (.writeSingleCoilResponse 0x01 0x00 0x07 0x00 0x00) waitSet)).results =
    [(0, .err (.protocol .functionMismatch [0x01, 0x05, 0x00, 0x07, 0x00, 0x00, 0x7C, 0x0B]))] := by decide +kernel
theorem test_write_multiple_ok : (out (exec (.writeMultipleCoilsResponse 0x01 0x00 0x00 0x00 0x08) waitSet)).results =
    [(0, .ok .unit)] := by decide +kernel
theorem test_write_multiple_stray : (out (exec (.writeMultipleCoilsResponse 0x01 0x00 0x00 0x00 0x08) (withPolicy .early .keep opened))).rxPending =
    [0x01, 0x0F, 0x00, 0x00, 0x00, 0x08, 0x54, 0x0D] := by decide +kernel
theorem test_exception_code : (out (exec (.exceptionResponse 0x01 0x05 0x04 []) waitOne)).results =
    [(0, .err (.deviceException 0x04 0x85 [0x01, 0x85, 0x04, 0x43, 0x53]))] := by decide +kernel
theorem test_exception_other_function : (out (exec (.exceptionResponse 0x01 0x05 0x01 []) waitAll)).results =
    [(0, .err (.protocol .functionMismatch [0x01, 0x85, 0x01, 0x83, 0x50]))] := by decide +kernel
theorem test_dispose_idle : (out (exec .dispose opened)).portOpen = false ∧ (out (exec .dispose opened)).phase = .disposed := by decide +kernel
theorem test_dispose_held : (out (exec .dispose { waitAll with cur := 1 })).callerOf 1 = .held .dispose := by decide +kernel

/-! ### Events -/

theorem test_byte_completes : (out (step (next [.rxByte 0x8B]
    { waitAll with rxBuf := [0x01, 0x01, 0x01, 0x05, 0x91], rxExpect := some 6 }))).results =
      [(0, .ok (.coils [true, false, true, false, false, false, false, false]))] := by decide +kernel
theorem test_byte_bad_crc : (out (step (next [.rxByte 0x8C]
    { waitAll with rxBuf := [0x02, 0x01, 0x01, 0x05, 0x91], rxExpect := some 6 }))).results =
      [(0, .err (.protocol .crcMismatch [0x02, 0x01, 0x01, 0x05, 0x91, 0x8C]))] := by decide +kernel
theorem test_header_byte_count : (out (step (next [.rxByte 0xFA] { waitAll with rxBuf := [0x01, 0x01] }))).rxExpect = some 255 := by decide +kernel
theorem test_header_early : (out (step (next [.rxByte 0x81] { waitAll with rxBuf := [0x01] }))).rxExpect = some 5 := by decide +kernel
theorem test_header_literal : (out (step (next [.rxByte 0x02]
    (withPolicy .literal .discard { waitAll with rxBuf := [0x01, 0x81] })))).rxExpect = some 7 := by decide +kernel
theorem test_timeout_received : (out (step (next [.timeout] { waitAll with rxBuf := [0x01, 0x01, 0x01], rxExpect := some 6 }))).results =
    [(0, .err (.timeoutRead 3))] := by decide +kernel
theorem test_io_fault : (out (step (next [.ioFault] waitAll))).results = [(0, .err (.connection .ioFault))] := by decide +kernel
theorem test_write_timeout : (out (step (next [.present 0 (.bus .readAll) ⟨.openOk, .writeTimeout 3⟩] fresh))).txLog = [[0x01, 0x01, 0x00]] := by
  decide +kernel
theorem test_open_fail : (out (step (next [.present 0 (.bus .readAll) ⟨.openFail, .sent⟩] fresh))).results =
    [(0, .err (.connection .openFailed))] := by decide +kernel
theorem test_take_up : (out (step (next [.takeUp 1 ok] { opened with callers := [(1, .held (.bus (.setChannel 8 false)))] }))).txLog =
    [[0x01, 0x05, 0x00, 0x07, 0x00, 0x00, 0x7C, 0x0B]] := by decide +kernel
theorem test_kept_bytes_spoil : (out (step (next [.present 0 (.bus (.readCoils 0 16)) ok]
    { withPolicy .early .keep opened with rxPending := [0x34, 0x12, 0x2F, 0x31] }))).rxExpect = some 52 := by decide +kernel

/-! ### The invariant of the states used below -/

/-- An idle state with no caller waiting. -/
theorem inv_idle {s : State} (hc : s.callers = []) (ho : s.lockOwner = none) (hp : s.phase = .idle) (hb : s.rxBuf = [])
    (hx : s.rxExpect = none) (hq : s.rxPending = []) : Inv s where
  callersCanonical := by rw [hc]; rfl
  lockedIffAwaiting := by simp [ho, hp]
  ownerInflight := by simp [ho]
  inflightOwner := by simp [State.callerOf, hc, callersGet]
  inflightEnabled := by simp [State.callerOf, hc, callersGet]
  heldChecked := by simp [State.callerOf, hc, callersGet]
  decoderEmpty := fun _ => ⟨hb, hx⟩
  expectExact := by simp [hp]
  notComplete := by simp [hx]
  portOpenAwaiting := by simp [hp]
  portClosedDisposed := by simp [hp]
  pendingKept := by simp [hq]

/-- Caller 0 waits for its response, and maybe caller 1 is held with `SET_CHANNEL 8, off`. -/
theorem inv_waitAll {s : State} (held : Bool) (hs : s = { waitAll with
      inputs := s.inputs, rxBuf := s.rxBuf, rxExpect := s.rxExpect
      callers := (0, .inflight .readAll) :: if held then [(1, .held (.bus (.setChannel 8 false)))] else [] })
    (hx : s.rxExpect = responseLength .early 0x01 s.rxBuf) (hn : ∀ n, s.rxExpect = some n → s.rxBuf.length < n) : Inv s := by
  have hc : ∀ k, s.callerOf k =
      if k = 0 then .inflight .readAll else if k = 1 ∧ held = true then .held (.bus (.setChannel 8 false)) else .free := fun k => by
    rw [hs]
    cases held
    · simp [State.callerOf, callersGet, eq_comm]
    · simp [State.callerOf, callersGet, eq_comm]
  have h1 : s.phase = .awaitRsp := by rw [hs]; rfl
  have h2 : s.lockOwner = some 0 := by rw [hs]; rfl
  have h3 : s.cfg = fresh.cfg := by rw [hs]; rfl
  refine ⟨?_, by simp [h1, h2], ?_, ?_, ?_, ?_, by simp [h1], ?_, hn, ?_, by simp [h1], ?_⟩
  · rw [hs]; cases held <;> rfl
  · intro k hk
    rw [h2] at hk
    injection hk with hk
    subst hk
    refine ⟨.readAll, by simp [hc], ?_⟩
    rw [hs]
    exact ⟨rfl, rfl, rfl, rfl, rfl, rfl⟩
  · intro k c hk
    rw [hc] at hk
    split at hk
    · subst k; exact h2
    · split at hk <;> cases hk
  · intro k c _
    rw [h3]; rfl
  · intro k c hk
    rw [hc] at hk
    split at hk
    · cases hk
    · split at hk
      · cases hk
        exact ⟨by decide, by rw [h3]; rfl⟩
      · cases hk
  · intro _
    have h4 : s.reqFc = 0x01 := by rw [hs]; rfl
    rw [h3, h4]; exact hx
  · intro _; rw [hs]; rfl
  · intro h
    exact absurd (by rw [hs]; rfl) h

/-- Caller 0 in flight, caller 1 held. -/
def contended : State := { waitAll with callers := [(0, .inflight .readAll), (1, .held (.bus (.setChannel 8 false)))] }

theorem inv_contended (e : List Event) : Inv (next e contended) :=
  inv_waitAll true rfl rfl (by simp [next, contended, waitAll, waiting])

theorem inv_wait (e : List Event) : Inv (next e waitAll) :=
  inv_waitAll false rfl rfl (by simp [next, waitAll, waiting])

theorem inv_opened (e : List Event) : Inv (next e opened) :=
  inv_idle rfl rfl rfl rfl rfl rfl

/-! ### Witnesses: the checksum unit and the gate -/

theorem witness_AppendedCrcValidatesAndFlipsAreDetected :
    0 < 8 * (appendCrc []).length ∧ 15 < 8 * (appendCrc []).length ∧ 63 < 8 * (appendCrc [0x01, 0x05, 0x00, 0x00, 0xFF, 0x00]).length := by
  decide +kernel

theorem witness_CrcSeparatesOneByte : (0x00 : Byte) ≠ 0xFF ∧ (0x00 : Byte) ≠ 0x01 := by decide

/-- Both forms of the command, in `DISPOSED` and in `AWAIT_RSP`. -/
theorem witness_ChecksumCommandsArePure :
    ((∃ bytes length, Command.crcCompute [0x01, 0x02] 2 = .crcCompute bytes length) ∧ callersWf gone.callers = true ∧
      gone.callerOf 0 = .free ∧ (next [.present 0 (.crcCompute [0x01, 0x02] 2) ok] gone).inputs = [.present 0 (.crcCompute [0x01, 0x02] 2) ok]) ∧
    ((∃ frame, Command.crcValidate [0x00] = .crcValidate frame) ∧ callersWf waitAll.callers = true ∧ waitAll.callerOf 1 = .free ∧
      (next [.present 1 (.crcValidate [0x00]) ok] waitAll).inputs = [.present 1 (.crcValidate [0x00]) ok]) :=
  ⟨⟨⟨_, _, rfl⟩, rfl, rfl, rfl⟩, ⟨_, rfl⟩, rfl, rfl, rfl⟩

/-- Each clause at the bounds of its range. -/
theorem witness_ArgumentsAreChecked :
    ((0 : Int) < 1 ∧ (2000 : Int) < 2001) ∧
    ((1 : Int) ≤ 1 ∧ (1 : Int) ≤ 2000 ∧ (-1 : Int) < 0 ∧ (1 : Int) ≤ 2000 ∧ (2000 : Int) ≤ 2000 ∧ (65535 : Int) < 65536) ∧
    ((0 : Int) < 1 ∧ (8 : Int) < 9) ∧ ([] : List Bool).length ≠ 8 ∧ (List.replicate 7 true).length ≠ 8 ∧ (List.replicate 9 true).length ≠ 8 := by
  decide

/-- Legal arguments at their bounds. -/
theorem witness_ArgumentsAreChecked_legal :
    legalArgs (.readCoils 0 1) ∧ legalArgs (.readCoils 65535 2000) ∧ legalArgs .readAll ∧ legalArgs (.setChannel 1 true) ∧
      legalArgs (.setChannel 8 false) ∧ legalArgs (.setAll (List.replicate 8 true)) := by
  simp [legalArgs]

theorem witness_DisabledGivesConfigError :
    legalArgs .readAll ∧ State.reset.cfg.enabled = false ∧ legalArgs (.readCoils 65535 2000) ∧ disabled.cfg.enabled = false := by
  simp [legalArgs]; decide

theorem witness_DisposedGivesConnectionError :
    gone.phase = .disposed ∧ legalArgs (.setAll (List.replicate 8 true)) ∧ gone.cfg.enabled = true := by
  simp [legalArgs]; decide

theorem witness_LockedCommandIsHeld : waitAll.phase = .awaitRsp ∧ legalArgs (.setChannel 8 false) ∧ waitAll.cfg.enabled = true := by
  simp [legalArgs]; decide

theorem witness_TakeUpWhileLockedWaits :
    Inv (next [.takeUp 1 ok] contended) ∧ contended.phase = .awaitRsp ∧
      (next [.takeUp 1 ok] contended).callerOf 1 = .held (.bus (.setChannel 8 false)) ∧
      (next [.takeUp 1 ok] contended).inputs = [.takeUp 1 ok] :=
  ⟨inv_contended _, rfl, rfl, rfl⟩

/-- The open fails. -/
def failing : State := { fresh with answer := ⟨.openFail, .sent⟩ }

theorem witness_OpenFailureSendsNothing :
    legalArgs .readAll ∧ failing.cfg.enabled = true ∧ failing.phase = .idle ∧ failing.portOpen = false ∧ failing.answer.opening = .openFail :=
  ⟨trivial, rfl, rfl, rfl, rfl⟩

/-- A held caller in `IDLE`. -/
def heldIdle (c : BusCommand) : State := { opened with callers := [(0, .held (.bus c))] }

theorem witness_TakeUpActsAsPresenting :
    (next [.takeUp 0 ok] (heldIdle (.readCoils 65535 2000))).callerOf 0 = .held (.bus (.readCoils 65535 2000)) ∧
      legalArgs (.readCoils 65535 2000) ∧ (heldIdle (.readCoils 65535 2000)).cfg.enabled = true ∧
      (next [.takeUp 0 ok] (heldIdle (.readCoils 65535 2000))).inputs = [.takeUp 0 ok] :=
  ⟨rfl, by simp [legalArgs], rfl, rfl⟩

/-! ### Witnesses: requests -/

theorem clear_fresh : clearToSend fresh := ⟨rfl, .inr rfl, rfl, .inl rfl⟩
theorem clear_keep : clearToSend (withPolicy .early .keep opened) := ⟨rfl, .inl rfl, rfl, .inr rfl⟩

theorem witness_ReadCoilsSendsRequest :
    ((0 : Int) ≤ 0 ∧ (0 : Int) ≤ 65535 ∧ (1 : Int) ≤ 1 ∧ (1 : Int) ≤ 2000 ∧ fresh.cfg.enabled = true ∧ clearToSend fresh) ∧
    ((0 : Int) ≤ 65535 ∧ (65535 : Int) ≤ 65535 ∧ (1 : Int) ≤ 2000 ∧ (2000 : Int) ≤ 2000 ∧
      (withPolicy .early .keep opened).cfg.enabled = true ∧ clearToSend (withPolicy .early .keep opened)) :=
  ⟨⟨by decide, by decide, by decide, by decide, rfl, clear_fresh⟩, by decide, by decide, by decide, by decide, rfl, clear_keep⟩

theorem witness_ReadAllSendsRequest : fresh.cfg.enabled = true ∧ clearToSend fresh := ⟨rfl, clear_fresh⟩

theorem witness_SetChannelSendsRequest :
    ((1 : Int) ≤ 1 ∧ (1 : Int) ≤ 8 ∧ (1 : Int) ≤ 8 ∧ (8 : Int) ≤ 8) ∧ fresh.cfg.enabled = true ∧ clearToSend fresh :=
  ⟨by decide, rfl, clear_fresh⟩

theorem witness_SetAllSendsRequest :
    ([true, false, true, false, false, false, false, false] : List Bool).length = 8 ∧ fresh.cfg.enabled = true ∧ clearToSend fresh :=
  ⟨rfl, rfl, clear_fresh⟩

/-- With the current caller free, and with it held with `READ_ALL`. -/
theorem witness_RequestFramesAreSent :
    clearToSend fresh ∧ fresh.callerOf fresh.cur = .free ∧ clearToSend (heldIdle .readAll) ∧
      (heldIdle .readAll).callerOf (heldIdle .readAll).cur = .held (.bus .readAll) :=
  ⟨clear_fresh, rfl, ⟨rfl, .inl rfl, rfl, .inl rfl⟩, rfl⟩

theorem witness_RequestRegistersAreWritten :
    legalArgs (.readCoils 65535 2000) ∧ legalArgs .readAll ∧ legalArgs (.setChannel 8 true) ∧ legalArgs (.setAll (List.replicate 8 false)) ∧
      fresh.cfg.enabled = true ∧ fresh.phase = .idle ∧ fresh.answer.opening = .openOk := by
  simp [legalArgs]; decide

/-- The transmission times out after `j` bytes. -/
def stalling (j : Nat) : State := { fresh with answer := ⟨.openOk, .writeTimeout j⟩ }

/-- No byte goes out, or all eight do. -/
theorem witness_WriteTimeoutEndsTransaction :
    legalArgs .readAll ∧ ∀ j, j = 0 ∨ j = 8 →
      (stalling j).cfg.enabled = true ∧ (stalling j).phase = .idle ∧ (stalling j).answer.opening = .openOk ∧
      (stalling j).answer.sending = .writeTimeout j ∧ ∃ frame, encode (stalling j).cfg.deviceAddr (resumeInstr (.bus .readAll)) = some frame ∧
        j ≤ frame.length :=
  ⟨trivial, fun j h => ⟨rfl, rfl, rfl, rfl, _, rfl, by rcases h with rfl | rfl <;> decide⟩⟩

/-- Four stale bytes kept before a read. -/
def stale : State := { withPolicy .early .keep opened with rxPending := [0x34, 0x12, 0x2F, 0x31] }

theorem witness_KeptBytesActAsArrivals :
    legalArgs (.readCoils 0 16) ∧ stale.cfg.enabled = true ∧ stale.phase = .idle ∧ stale.portOpen = true ∧ stale.answer.sending = .sent ∧
      stale.cfg.idleRx = .keep ∧ stale.rxPending = [0x34, 0x12, 0x2F, 0x31] :=
  ⟨by simp [legalArgs], rfl, rfl, rfl, rfl, rfl, rfl⟩

/-! ### Witnesses: responses -/

/-- One coil, and the most coils, with the byte counts they need. -/
theorem witness_ReadCoilsResponseResult :
    let one := waiting (.readCoils 0 1) .readCoils 0x01 0 1
    let most := waiting (.readCoils 0 2000) .readCoils 0x01 0 2000
    (one.phase = .awaitRsp ∧ one.lockOwner = some 0 ∧ one.reqAddr = 0x01 ∧ one.reqFc = 0x01 ∧
      ([0xFF] : List Byte).length ≤ 255 ∧ ([0xFF] : List Byte).length = (one.reqQty.toNat + 7) / 8) ∧
    (most.phase = .awaitRsp ∧ most.lockOwner = some 0 ∧ most.reqAddr = 0x01 ∧ most.reqFc = 0x01 ∧
      (List.replicate 250 (0xFF : Byte)).length ≤ 255 ∧ (List.replicate 250 (0xFF : Byte)).length = (most.reqQty.toNat + 7) / 8) := by
  refine ⟨⟨rfl, rfl, rfl, rfl, by decide, by decide⟩, rfl, rfl, rfl, rfl, ?_, ?_⟩ <;> rw [List.length_replicate] <;> decide

theorem witness_WriteSingleResponseResult :
    waitOne.phase = .awaitRsp ∧ waitOne.lockOwner = some 0 ∧ waitOne.reqAddr = 0x01 ∧ waitOne.reqFc = 0x05 := by decide

theorem witness_WriteMultipleResponseResult :
    waitSet.phase = .awaitRsp ∧ waitSet.lockOwner = some 0 ∧ waitSet.reqAddr = 0x01 ∧ waitSet.reqFc = 0x0F := by decide

/-- An exception for the code that was sent, and one for another. -/
theorem witness_ExceptionResponseResult :
    waitOne.phase = .awaitRsp ∧ waitOne.lockOwner = some 0 ∧ waitOne.reqAddr = 0x01 ∧
      ((5 : BitVec 7).setWidth 8 : Byte) = waitOne.reqFc ∧ ((1 : BitVec 7).setWidth 8 : Byte) ≠ waitOne.reqFc := by decide

theorem witness_WrongAddressIsMismatch :
    responseAddress (.readCoilsResponse 0x02 [0x05]) = some 0x02 ∧
      encode waitAll.cfg.deviceAddr (.readCoilsResponse 0x02 [0x05]) = some [0x02, 0x01, 0x01, 0x05, 0x91, 0xCF] ∧
      waitAll.phase = .awaitRsp ∧ waitAll.lockOwner = some 0 ∧ (0x02 : Byte) ≠ waitAll.reqAddr := by decide +kernel

/-- In `IDLE` under `KEEP`, and after disposal. -/
theorem witness_StrayResponseIsNotInterpreted :
    responseAddress (.readCoilsResponse 0x02 [0x05]) = some 0x02 ∧
      encode stale.cfg.deviceAddr (.readCoilsResponse 0x02 [0x05]) = some [0x02, 0x01, 0x01, 0x05, 0x91, 0xCF] ∧
      stale.phase ≠ .awaitRsp ∧ gone.phase ≠ .awaitRsp := by decide +kernel

/-- The shortest response, an exception reply, before its last byte. -/
def almostException : State := { waitOne with rxBuf := [0x01, 0x85, 0x02, 0xC3], rxExpect := some 5, inputs := [.rxByte 0x51] }

/-- A response of `READ_ALL` before its last byte. -/
def almostRead : State := { waitAll with rxBuf := [0x01, 0x01, 0x01, 0x05, 0x91], rxExpect := some 6, inputs := [.rxByte 0x8B] }

theorem witness_CompletedFrameIsCheckedInOrder :
    (almostException.phase = .awaitRsp ∧ almostException.lockOwner = some 0 ∧ almostException.inputs = [.rxByte 0x51] ∧
      5 ≤ almostException.rxBuf.length + 1 ∧ almostException.rxExpect = some (almostException.rxBuf.length + 1) ∧ almostException.reqFc = 0x05) ∧
    (almostRead.phase = .awaitRsp ∧ almostRead.lockOwner = some 0 ∧ almostRead.inputs = [.rxByte 0x8B] ∧
      5 ≤ almostRead.rxBuf.length + 1 ∧ almostRead.rxExpect = some (almostRead.rxBuf.length + 1) ∧ almostRead.reqFc = 0x01) := by decide

theorem witness_ByteJoinsTheBuffer :
    Inv (next [.rxByte 0x01] waitAll) ∧ waitAll.phase = .awaitRsp ∧ (next [.rxByte 0x01] waitAll).inputs = [.rxByte 0x01] ∧
      responseLength waitAll.cfg.excLength waitAll.reqFc (waitAll.rxBuf ++ [0x01]) ≠ some (waitAll.rxBuf.length + 1) :=
  ⟨inv_wait _, rfl, rfl, by decide⟩

theorem witness_DeliveredResponseRunsOnce :
    let frame : List Byte := [0x01, 0x01, 0x01, 0x05, 0x91, 0x8B]
    let s := next (frame.map Event.rxByte) waitAll
    decoderStarted s ∧ s.reqFc = 0x01 ∧ responseAddress (.readCoilsResponse 0x01 [0x05]) = some 0x01 ∧
      (Instr.readCoilsResponse 0x01 [0x05]).wf = true ∧ answersRequest s.reqFc (.readCoilsResponse 0x01 [0x05]) ∧
      encode s.cfg.deviceAddr (.readCoilsResponse 0x01 [0x05]) = some frame ∧
      responseLength s.cfg.excLength s.reqFc frame = some frame.length ∧ s.inputs = frame.map Event.rxByte ++ [] :=
  ⟨⟨rfl, rfl, rfl⟩, rfl, rfl, by decide, rfl, by decide +kernel, by decide, by decide⟩

/-- Under `LITERAL`, after each of the three function codes. -/
theorem witness_ShortExceptionWaitsUnderLiteral :
    let s (c : State) (f : List Byte) := next (f.map Event.rxByte) (withPolicy .literal .discard c)
    (decoderStarted (s waitOne [0x01, 0x85, 0x02, 0xC3, 0x51]) ∧ (s waitOne [0x01, 0x85, 0x02, 0xC3, 0x51]).cfg.excLength = .literal ∧
      0x80 ≤ (0x85 : Byte).toNat ∧ (s waitOne [0x01, 0x85, 0x02, 0xC3, 0x51]).reqFc = 0x05) ∧
    (decoderStarted (s waitSet [0x01, 0x8F, 0x02, 0xC5, 0xF1]) ∧ 0x80 ≤ (0x8F : Byte).toNat ∧ (s waitSet [0x01, 0x8F, 0x02, 0xC5, 0xF1]).reqFc = 0x0F) ∧
    (decoderStarted (s waitAll [0x01, 0x81, 0x02, 0xC1, 0x91]) ∧ 0x80 ≤ (0x81 : Byte).toNat ∧
      (s waitAll [0x01, 0x81, 0x02, 0xC1, 0x91]).reqFc = 0x01 ∧ (0x02 : Byte) ≠ 0) :=
  ⟨⟨⟨rfl, rfl, rfl⟩, rfl, by decide, rfl⟩, ⟨⟨rfl, rfl, rfl⟩, by decide, rfl⟩, ⟨rfl, rfl, rfl⟩, by decide, rfl, by decide⟩

theorem witness_StrayByteIsKeptOrDropped :
    stale.phase ≠ .awaitRsp ∧ gone.phase ≠ .awaitRsp ∧ (next [.rxByte 0x01] stale).inputs = [.rxByte 0x01] ∧
      (next [.rxByte 0x01] gone).inputs = [.rxByte 0x01] := by decide

/-! ### Witnesses: ends of a transaction, disposal, the whole machine -/

theorem witness_TimeoutEndsTransaction :
    (next [.timeout] waitAll).inputs = [.timeout] ∧ waitAll.phase = .awaitRsp ∧ waitAll.lockOwner = some 0 ∧
      (next [.timeout] opened).inputs = [.timeout] ∧ opened.phase ≠ .awaitRsp := by decide

theorem witness_IoFaultEndsTransaction :
    (next [.ioFault] waitAll).inputs = [.ioFault] ∧ waitAll.phase = .awaitRsp ∧ waitAll.lockOwner = some 0 ∧
      (next [.ioFault] gone).inputs = [.ioFault] ∧ gone.phase ≠ .awaitRsp := by decide

theorem witness_DisposeClosesThePort : opened.phase = .idle ∧ gone.phase = .disposed := by decide

theorem witness_DisposedIsForEver : gone.phase = .disposed ∧ ∃ t, step (next [.present 0 (.bus .readAll) ok] gone) = .next t :=
  ⟨rfl, _, rfl⟩

theorem witness_StepKeepsInvariant :
    Inv (next [.takeUp 1 ok] contended) ∧ ∃ t, step (next [.takeUp 1 ok] contended) = .next t := ⟨inv_contended _, _, rfl⟩

/-- Unknown length, and a known one. -/
theorem witness_ReceiveBufferIsBounded :
    Inv waitAll ∧ Inv { waitAll with rxBuf := [0x01, 0x01, 0xFF], rxExpect := some 260 } :=
  ⟨inv_waitAll false rfl rfl (by simp [waitAll, waiting]), inv_waitAll false rfl rfl (by simp)⟩

theorem witness_ConfigurationIsLatched : ∃ t, step (next [.present 0 .dispose ok] opened) = .next t := ⟨_, rfl⟩

theorem witness_LockSerialisesTransactions :
    Inv (next [.timeout] contended) ∧ contended.phase = .awaitRsp ∧ contended.lockOwner = some 0 ∧
      ∃ t, step (next [.timeout] contended) = .next t := ⟨inv_contended _, rfl, rfl, _, rfl⟩

theorem witness_EmittedFramesAreRequests : ∃ t, step (next [.present 0 (.bus .readAll) ⟨.openOk, .writeTimeout 3⟩] fresh) = .next t := ⟨_, rfl⟩

theorem witness_OneResultPerCommand :
    Inv (next [.present 0 (.bus .readAll) ok] opened) ∧ presents (next [.present 0 (.bus .readAll) ok] opened) 0 ∧
      ∃ t, step (next [.present 0 (.bus .readAll) ok] opened) = .next t := ⟨inv_opened _, ⟨_, _, _, rfl⟩, _, rfl⟩

theorem witness_ResultsFollowTheMatrix :
    Inv (next [.timeout] waitAll) ∧ ∃ t, step (next [.timeout] waitAll) = .next t ∧
      t.results = (next [.timeout] waitAll).results ++ [(0, .err (.timeoutRead 0))] := ⟨inv_wait _, _, rfl, rfl⟩

theorem witness_DisabledNeverTransmits :
    Inv (next [.present 0 (.bus .readAll) ok] State.reset) ∧ (next [.present 0 (.bus .readAll) ok] State.reset).cfg.enabled = false ∧
      ∃ t, step (next [.present 0 (.bus .readAll) ok] State.reset) = .next t := ⟨inv_idle rfl rfl rfl rfl rfl rfl, rfl, _, rfl⟩

theorem witness_IdleRequestRegistersAreUnobservable :
    sameButRequest opened { opened with reqCmd := .setAll, reqAddr := 0xFF, reqFc := 0x0F, reqStart := 7, reqQty := 1 } :=
  ⟨rfl, fun h => absurd h (by decide)⟩

/-- A run with both callers of `contended` waiting: a time-out, the taking up of caller 1, whose transmission times out, and
then nothing. -/
def run : Nat → State
  | 0 => next [.timeout, .takeUp 1 ⟨.openOk, .writeTimeout 0⟩] contended
  | 1 => out (step (next [.timeout, .takeUp 1 ⟨.openOk, .writeTimeout 0⟩] contended))
  | _ + 2 => out (step (out (step (next [.timeout, .takeUp 1 ⟨.openOk, .writeTimeout 0⟩] contended))))

theorem witness_EveryWaitingCallerIsAnswered :
    Inv (run 0) ∧ Run run ∧ TimeoutFairness run ∧ LockFairness run ∧ (run 0).callerOf 0 ≠ .free ∧ (run 0).callerOf 1 ≠ .free := by
  have hfree : ∀ n k, (run (n + 2)).callerOf k = .free := fun n k => rfl
  refine ⟨inv_contended _, fun n => .inl ?_, fun n _ => ⟨n + 2, by omega, by simp [run]; decide⟩,
    fun n k _ _ => ⟨n + 2, by omega, ?_⟩, by decide, by decide⟩
  · match n with
    | 0 => rfl
    | 1 => rfl
    | _ + 2 => rfl
  · rintro ⟨h, hh⟩
    rw [hfree] at hh
    cases hh

theorem witness_BusyCallerIsRefused :
    (next [.present 0 .dispose ok] waitAll).inputs = [.present 0 .dispose ok] ∧ (next [.present 0 .dispose ok] waitAll).callerOf 0 ≠ .free := by
  decide

/-- A command, a held command, and a last byte. -/
theorem witness_StepRunsTheDecodedInstruction :
    ((next [.present 0 .dispose ok] opened).inputs = [.present 0 .dispose ok] ∧ opened.callerOf 0 = .free) ∧
    ((next [.takeUp 0 ok] (heldIdle .readAll)).inputs = [.takeUp 0 ok] ∧ (heldIdle .readAll).callerOf 0 = .held (.bus .readAll)) ∧
    (almostRead.inputs = [.rxByte 0x8B] ∧ almostRead.phase = .awaitRsp ∧ 3 ≤ almostRead.rxBuf.length ∧
      almostRead.rxExpect = some (almostRead.rxBuf.length + 1) ∧
      decodeResponse almostRead.reqFc (almostRead.rxBuf ++ [0x8B]) = .ok (.readCoilsResponse 0x01 [0x05])) := by decide +kernel

/-! ### Witnesses: encodings -/

theorem witness_RequestsDecodeAsEncoded :
    (isRequest (.readCoilsRequest 65535 2000) = true ∧ (Instr.readCoilsRequest 65535 2000).wf = true ∧
      encode 0x01 (.readCoilsRequest 65535 2000) = some [0x01, 0x01, 0xFF, 0xFF, 0x07, 0xD0, 0x3F, 0x82]) ∧
    (isRequest (.setChannelRequest 7 true) = true ∧ (Instr.setChannelRequest 7 true).wf = true ∧
      encode 0x01 (.setChannelRequest 7 true) = some [0x01, 0x05, 0x00, 0x07, 0xFF, 0x00, 0x3D, 0xFB]) := by decide +kernel

/-- No data byte, and an exception reply to any code. -/
theorem witness_ResponsesDecodeAsEncoded :
    ((Instr.readCoilsResponse 0x01 []).wf = true ∧ answersRequest 0x01 (.readCoilsResponse 0x01 []) ∧
      encode 0x01 (.readCoilsResponse 0x01 []) = some [0x01, 0x01, 0x00, 0x21, 0x90]) ∧
    ((Instr.exceptionResponse 0x01 0x05 0x01 []).wf = true ∧ answersRequest 0x01 (.exceptionResponse 0x01 0x05 0x01 []) ∧
      encode 0x01 (.exceptionResponse 0x01 0x05 0x01 []) = some [0x01, 0x85, 0x01, 0x83, 0x50]) :=
  ⟨⟨by decide, rfl, by decide +kernel⟩, by decide, trivial, by decide +kernel⟩

theorem witness_DecodedFramesReencode :
    decodeRequest 0x11 [0x11, 0x01, 0x00, 0x13, 0x00, 0x25, 0x0E, 0x84] = .ok (.readCoilsRequest 0x13 0x25) ∧
      decodeResponse 0x01 [0x01, 0x81, 0x02, 0xC1, 0x91] = .ok (.exceptionResponse 0x01 0x01 0x02 []) := by decide +kernel

theorem witness_PackAndUnpackAreInverse : ([false, false, false, false, false, false, false, true] : List Bool).length = 8 := by decide

/-- Two errors with the same code and subcode and different info. -/
theorem witness_ResultCodesTellErrorsApart :
    resultCode (.err (.timeoutRead 3)) = resultCode (.err (.timeoutRead 5)) ∧ errorSubcode (.timeoutRead 3) = errorSubcode (.timeoutRead 5) := by
  decide

end Sys2Proof.Tests
end

section
/-! PROOFS. The registers after reset (10_state.md R38). -/

namespace Sys2Proof.Proofs.Reset

open Machine

/-- Reset lists no caller, and an unlisted caller is `FREE` (10_state.md R32). -/
@[simp] theorem callerOf_resetWith (cfg : Config) (k : CallerId) : (State.resetWith cfg).callerOf k = .free := rfl

/-- Settles O40: every register but the callers is a field that `State.resetWith` writes, and the callers' states are read
through their table. -/
theorem resetValues : Obligations.ResetValues := by
  intro cfg
  exact ⟨rfl, rfl, rfl, rfl, rfl, rfl, rfl, callerOf_resetWith cfg, rfl⟩

end Sys2Proof.Proofs.Reset
end

section
/-! PROOFS. The request frames that READ_COILS and SET_CHANNEL send (30_encoding.md R73, R74). -/

namespace Sys2Proof.Proofs.RequestFrames

open Machine Safety

/-! ### A command that finds everything clear is accepted -/

/-- With no kept byte to feed, `decoder_start()` leaves the decoder empty and waiting under either policy
(42_relay_response.md R150). -/
theorem decoderStart_of_nothing_kept {s : State} (h : s.cfg.idleRx = .discard ∨ s.rxPending = []) :
    decoderStart s =
      { s with rxBuf := [], rxExpect := if s.reqFc = fcReadCoils then none else some 8, phase := .awaitRsp } := by
  rcases decoderStart_cases s with ⟨-, hstart⟩ | ⟨hkeep, hstart⟩
  · exact hstart
  · have hp : s.rxPending = [] := h.resolve_left (by simp [hkeep])
    simp [hstart, hp, feedPending]

/-- A whole transmission with nothing kept takes the lock, puts the frame out and starts the decoder
(43_relay_transaction.md R193). -/
theorem transmit_of_sent {s : State} (c : BusCommand) (frame : List Byte) (hs : s.answer.sending = .sent)
    (hk : s.cfg.idleRx = .discard ∨ s.rxPending = []) :
    transmit c frame s =
      { s with
        lockOwner := some s.cur
        callers := callersSet s.callers s.cur (.inflight c)
        txLog := s.txLog ++ [frame]
        rxBuf := []
        rxExpect := if s.reqFc = fcReadCoils then none else some 8
        phase := .awaitRsp } := by
  rcases transmit_cases c frame s with ⟨-, hsent⟩ | ⟨j, hcut, -⟩
  · rw [hsent]
    exact decoderStart_of_nothing_kept hk
  · simp [hs] at hcut

/-- A request that finds everything clear is sent whole and its response awaited (41_relay_commands.md R120 steps 3 to 7). -/
theorem sendRequest_of_clear {s : State} (c : BusCommand) (r : Request) (h : clearToSend s) :
    sendRequest c r s = awaiting c r.fc r.frame (withRequest r.cmd r.fc r.start r.qty s) := by
  obtain ⟨hidle, hopen, hsent, hkept⟩ := h
  rcases sendRequest_cases c r s with ⟨hp, -⟩ | ⟨hp, -⟩ | ⟨-, hclosed, hfail, -⟩ | ⟨-, -, hsend⟩
  · simp [hidle] at hp
  · simp [hidle] at hp
  · simp [hclosed, hfail] at hopen
  · rw [hsend]
    exact transmit_of_sent c r.frame hsent hkept

/-- An enabled bus command with legal arguments sends its own request when everything is clear. -/
theorem exec_busInstr_of_clear {s : State} (c : BusCommand) (hargs : legalArgs c) (hen : s.cfg.enabled = true)
    (h : clearToSend s) :
    exec (busInstr c) s =
      .next (awaiting c (requestOf s.cfg.deviceAddr c).fc (requestOf s.cfg.deviceAddr c).frame
        (withRequest (requestOf s.cfg.deviceAddr c).cmd (requestOf s.cfg.deviceAddr c).fc
          (requestOf s.cfg.deviceAddr c).start (requestOf s.cfg.deviceAddr c).qty s)) := by
  have hnone := (argError_eq_none c).mpr hargs
  rw [exec_busInstr]
  rcases presentBus_cases c (requestOf s.cfg.deviceAddr c) s with ⟨sub, hsome, -⟩ | ⟨-, hdis, -⟩ | ⟨-, -, hpresent⟩
  · simp [hnone] at hsome
  · simp [hen] at hdis
  · rw [hpresent, sendRequest_of_clear c _ h]

/-! ### The bytes of the frames -/

/-- The low byte of a narrowed integer is the integer modulo 256 (30_encoding.md R81). -/
theorem loByte_narrow16 (v : Int) : loByte (narrow16 v) = BitVec.ofInt 8 v := by
  apply BitVec.eq_of_toNat_eq
  simp only [loByte, narrow16, BitVec.toNat_setWidth, BitVec.toNat_ofInt]
  omega

/-- The high byte of a narrowed integer is its quotient by 256, modulo 256 (30_encoding.md R81). -/
theorem hiByte_narrow16 (v : Int) : hiByte (narrow16 v) = BitVec.ofInt 8 (v / 256) := by
  apply BitVec.eq_of_toNat_eq
  simp only [hiByte, narrow16, BitVec.toNat_setWidth, BitVec.toNat_ushiftRight, BitVec.toNat_ofInt, Nat.shiftRight_eq_div_pow]
  omega

/-- A coil address 0..7 fits its three bits, so the byte sent is the address (30_encoding.md R74). -/
theorem coilByte_narrow16 {v : Int} (h0 : 0 ≤ v) (h7 : v ≤ 7) :
    ((narrow16 v).setWidth 3).setWidth 8 = BitVec.ofInt 8 v := by
  apply BitVec.eq_of_toNat_eq
  simp only [narrow16, BitVec.toNat_setWidth, BitVec.toNat_ofInt]
  omega

/-- The value field as sent, high byte first (30_encoding.md R74). -/
theorem field16_coilValue (on : Bool) : field16 (coilValue on) = [if on then 0xFF else 0x00, 0x00] := by
  cases on <;> rfl

/-- The frame of `REQ_RD` on integer operands, big-endian fields and the CRC (30_encoding.md R73). -/
theorem frameReadCoils_narrow16 (addr : Byte) (start count : Int) :
    frameReadCoils addr (narrow16 start) (narrow16 count) =
      sealed [addr, 0x01, BitVec.ofInt 8 (start / 256), BitVec.ofInt 8 start, BitVec.ofInt 8 (count / 256), BitVec.ofInt 8 count] := by
  simp only [frameReadCoils, field16, hiByte_narrow16, loByte_narrow16, appendCrc_eq_sealed, List.cons_append, List.nil_append]

/-- The frame of `REQ_WR1` on an integer coil address 0..7 (30_encoding.md R74). -/
theorem frameSetChannel_narrow16 (addr : Byte) {coil : Int} (on : Bool) (h0 : 0 ≤ coil) (h7 : coil ≤ 7) :
    frameSetChannel addr ((narrow16 coil).setWidth 3) on =
      sealed [addr, 0x05, 0x00, BitVec.ofInt 8 coil, if on then 0xFF else 0x00, 0x00] := by
  simp only [frameSetChannel, field16_coilValue, coilByte_narrow16 h0 h7, appendCrc_eq_sealed, List.cons_append, List.nil_append]

/-! ### The obligations -/

/-- Settles O16: the arguments pass R121, so the command's own request is sent, and the frame of that request is the
eight bytes of `REQ_RD`. -/
theorem readCoilsSendsRequest : Obligations.ReadCoilsSendsRequest := by
  intro start count s hstart0 hstart hcount1 hcount hen hclear
  rw [← frameReadCoils_narrow16]
  exact exec_busInstr_of_clear (.readCoils start count) ⟨hcount1, hcount, hstart0, hstart⟩ hen hclear

/-- Settles O19: the channel passes R121, its coil address `channel - 1` is 0..7, and the frame of the request is the
eight bytes of `REQ_WR1`. -/
theorem setChannelSendsRequest : Obligations.SetChannelSendsRequest := by
  intro channel on s hlow hhigh hen hclear
  rw [← frameSetChannel_narrow16 s.cfg.deviceAddr on (by omega) (by omega)]
  exact exec_busInstr_of_clear (.setChannel channel on) ⟨hlow, hhigh⟩ hen hclear

end Sys2Proof.Proofs.RequestFrames
end

section
/-! PROOFS. The checksum unit: the bit-serial form of the CRC (40_checksum.md R100), and what its two commands answer and
leave unchanged (R103 to R105). -/

namespace Sys2Proof.Proofs.Checksum

open Machine Safety

/-! ### The CRC bit by bit -/

/-- A turn of the inner loop on a register into which `x` has been XORed: bit 0 of `x` enters, and the rest of `x` stays
XORed in, moved down by one. -/
theorem crcShift_xor (c x : Half) : crcShift (c ^^^ x) = crcBitIn c (x.getLsbD 0) ^^^ (x >>> 1) := by
  simp only [crcShift, crcBitIn, BitVec.getLsbD_xor, BitVec.ushiftRight_xor_distrib]
  split
  · ac_rfl
  · rfl

/-- XORing a word in at once and turning `n` times is the same as letting its low `n` bits in one by one: what has not
entered yet stays XORed in. -/
theorem crcShifts_xor (n : Nat) (c x : Half) :
    crcShifts n (c ^^^ x) = ((List.range n).map x.getLsbD).foldl crcBitIn c ^^^ (x >>> n) := by
  induction n generalizing c x with
  | zero => simp [crcShifts]
  | succ n ih =>
    have hbits : (List.range n).map (x >>> 1).getLsbD = (List.range n).map (x.getLsbD ∘ Nat.succ) :=
      List.map_congr_left fun i _ => by
        simp only [BitVec.getLsbD_ushiftRight, Function.comp_apply, Nat.succ_eq_one_add]
    calc crcShifts (n + 1) (c ^^^ x)
        = crcShifts n (crcBitIn c (x.getLsbD 0) ^^^ (x >>> 1)) := by rw [crcShifts, crcShift_xor]
      _ = ((List.range n).map (x >>> 1).getLsbD).foldl crcBitIn (crcBitIn c (x.getLsbD 0)) ^^^ (x >>> 1 >>> n) := ih ..
      _ = ((List.range (n + 1)).map x.getLsbD).foldl crcBitIn c ^^^ (x >>> (n + 1)) := by
        rw [hbits, List.range_succ_eq_map, List.map_cons, List.map_map, List.foldl_cons, ← BitVec.shiftRight_add,
          Nat.add_comm 1 n]

/-- `crc_step` lets the eight bits of its byte in, least significant first: after eight turns nothing of the byte is left. -/
theorem crcStep_eq_foldl_bits (c : Half) (b : Byte) : crcStep c b = ((List.range 8).map b.getLsbD).foldl crcBitIn c := by
  have hbits : (List.range 8).map (b.setWidth 16).getLsbD = (List.range 8).map b.getLsbD :=
    List.map_congr_left fun i hi => by
      have hi16 : i < 16 := (List.mem_range.mp hi).trans (by decide)
      simp [hi16]
  have hgone : (b.setWidth 16 : Half) >>> 8 = 0#16 := by
    apply BitVec.eq_of_toNat_eq
    have hb : b.toNat < 256 := b.isLt
    simp [Nat.shiftRight_eq_div_pow]
    omega
  rw [crcStep, crcShifts_xor, hbits, hgone, BitVec.xor_zero]

/-- The bits of a byte sequence enter the register in the order of the sequence, from any start value. -/
theorem crcFrom_eq_foldl_bitsOf (c : Half) (bytes : List Byte) : crcFrom c bytes = (bitsOf bytes).foldl crcBitIn c := by
  induction bytes generalizing c with
  | nil => rfl
  | cons b rest ih =>
    rw [crcFrom_cons, ih, crcStep_eq_foldl_bits, bitsOf, bitsOf, List.flatMap_cons, List.foldl_append]

/-- Settles O1: `crc16` is `crcFrom` at the start value 0xFFFF, and `crcFrom` lets the bits in one by one. -/
theorem crcIsReflectedBitSerial : Obligations.CrcIsReflectedBitSerial :=
  crcFrom_eq_foldl_bitsOf 0xFFFF

/-! ### What the commands answer -/

/-- `CRC_COMPUTE` only answers, with the CRC of the first `length` bytes or `BAD_LENGTH` (40_checksum.md R103). -/
theorem exec_crcCompute (bytes : List Byte) (length : Int) (s : State) :
    exec (.crcCompute bytes length) s =
      .next (answered s.cur
        (if 0 ≤ length ∧ length ≤ bytes.length then .ok (.crc (crc16 (bytes.take length.toNat)))
          else .err (.argument .badLength)) s) := by
  rw [exec, execCrcCompute]
  by_cases hlen : 0 ≤ length ∧ length ≤ bytes.length
  · rw [if_neg (by omega), if_pos hlen, complete_eq_answered]
  · rw [if_pos (by omega), if_neg hlen, raise_eq_answered]

/-- `CRC_VALIDATE` only answers, with the frame test (40_checksum.md R104). -/
theorem exec_crcValidate (frame : List Byte) (s : State) :
    exec (.crcValidate frame) s = .next (answered s.cur (.ok (.bool (crcValid frame))) s) := by
  rw [exec, execCrcValidate, complete_eq_answered]

/-- A step whose next event is a free caller's command runs that command for it. -/
theorem step_present_free {s : State} {k : CallerId} {c : Command} {ans : EnvAnswer} {rest : List Event}
    (hin : s.inputs = .present k c ans :: rest) (hfree : s.callerOf k = .free) :
    step s = exec (commandInstr c) (serve k ans { s with inputs := rest }) := by
  simp only [step, runNext, hin, runEvent]
  exact runPresent_free c ans hfree

/-- A result for a caller that is free already is put on the result port, and the callers stand as they are. -/
theorem answered_of_free {s : State} {k : CallerId} (r : Result) (hwf : callersWf s.callers = true)
    (hfree : s.callerOf k = .free) : answered k r s = { s with results := s.results ++ [(k, r)] } := by
  rw [answered, callersSet_self hwf hfree]

/-- Settles O8: the command's result is chosen from its operands alone; the presenting caller is free before and after, so
the answer is all that the step adds. -/
theorem checksumCommandsArePure : Obligations.ChecksumCommandsArePure := by
  intro c hc
  have hanswers : ∃ r, ∀ s, exec (commandInstr c) s = .next (answered s.cur r s) := by
    rcases hc with ⟨bytes, length, rfl⟩ | ⟨frame, rfl⟩
    · exact ⟨_, exec_crcCompute bytes length⟩
    · exact ⟨_, exec_crcValidate frame⟩
  obtain ⟨r, hr⟩ := hanswers
  refine ⟨r, fun s k ans rest hwf hfree hin => ?_⟩
  rw [step_present_free hin hfree, hr, serve_cur]
  exact congrArg _ (answered_of_free r hwf hfree)

/-- Settles O6: the command's equation, at `length = 0` the CRC of no byte, and the spec's example evaluated. -/
theorem crcComputeResult : Obligations.CrcComputeResult := by
  refine ⟨exec_crcCompute, fun bytes s => ?_, by decide +kernel⟩
  rw [exec_crcCompute, if_pos ⟨le_rfl, Int.natCast_nonneg _⟩]
  rfl

/-- Settles O7: the frame test is that of R104, written with one `decide` for its two conditions. -/
theorem crcValidateResult : Obligations.CrcValidateResult := by
  intro frame s
  rw [exec_crcValidate, crcValid, ← Bool.decide_and]
  rfl

end Sys2Proof.Proofs.Checksum
end

section
/-! PROOFS. The bus commands: the argument check (41_relay_commands.md R121), the packed byte (R126) and what a transmission
leaves in the request registers (R128). -/

namespace Sys2Proof.Proofs.BusCommands

open Machine Safety

/-! ### The packed byte -/

/-- Bit i of the packed byte is state i; the states past the eighth are shifted out, and missing ones read as off. -/
theorem getLsbD_pack (v : List Bool) {i : Nat} (hi : i < 8) : (pack v).getLsbD i = v.getD i false := by
  induction v generalizing i with
  | nil => simp [pack]
  | cons b rest ih =>
    have hlow : (if b then 1 else 0 : Byte).getLsbD i = (decide (i = 0) && b) := by
      cases b <;> simp [BitVec.getLsbD_one]
    rw [pack, BitVec.getLsbD_or, BitVec.getLsbD_shiftLeft, hlow]
    cases i with
    | zero => simp
    | succ i => simpa [hi] using ih (Nat.lt_of_succ_lt hi)

/-- The eight coils of one byte are its bits. -/
theorem unpack_byte (d : Byte) : unpack [d] 8 = (List.range 8).map d.getLsbD :=
  List.map_congr_left fun i hi => by
    rw [Nat.div_eq_of_lt (List.mem_range.mp hi), Nat.mod_eq_of_lt (List.mem_range.mp hi), List.getD_cons_zero]

theorem unpack_pack {v : List Bool} (hv : v.length = 8) : unpack [pack v] 8 = v := by
  rw [unpack_byte]
  refine List.ext_getElem (by simp [hv]) fun i _ hi => ?_
  rw [List.getElem_map, List.getElem_range, getLsbD_pack v (hv ▸ hi), List.getD_eq_getElem v false hi]

theorem pack_unpack (d : Byte) : pack (unpack [d] 8) = d :=
  BitVec.eq_of_getLsbD_eq fun i hi => by
    rw [getLsbD_pack _ hi, unpack_byte]
    simp [List.getD, hi]

/-- Settles O58: the bits of the packed byte determine both inverses. -/
theorem packAndUnpackAreInverse : Obligations.PackAndUnpackAreInverse :=
  ⟨fun v hv => ⟨fun _ hi => getLsbD_pack v hi, unpack_pack hv⟩, pack_unpack⟩

/-! ### The gate: what a presented command does after its argument check -/

/-- A failed argument check is answered with its subkind, and nothing else happens (41_relay_commands.md R120 step 1). -/
theorem exec_busInstr_of_argError {c : BusCommand} {sub : ArgSub} (s : State) (h : argError c = some sub) :
    exec (busInstr c) s = .next (answered s.cur (.err (.argument sub)) s) := by
  simp only [exec_busInstr, presentBus, h, raise_eq_answered]

/-- A bus command with legal arguments is refused by a disabled block and goes on to be sent by an enabled one. -/
theorem exec_busInstr_of_legalArgs {c : BusCommand} (s : State) (h : legalArgs c) :
    exec (busInstr c) s =
      .next (if s.cfg.enabled then sendRequest c (requestOf s.cfg.deviceAddr c) s else raise .configDisabled s) := by
  simp only [exec_busInstr, presentBus, (argError_eq_none c).mpr h]

/-! ### The argument check -/

theorem argError_readCoils_of_count (start : Int) {count : Int} (h : count < 1 ∨ 2000 < count) :
    argError (.readCoils start count) = some .countRange :=
  if_pos h

theorem argError_readCoils_of_start {start count : Int} (hlow : 1 ≤ count) (hhigh : count ≤ 2000)
    (h : start < 0 ∨ 65535 < start) : argError (.readCoils start count) = some .startRange := by
  rw [argError, if_neg (by omega)]
  rcases h with hneg | hpast
  · rw [if_pos hneg]
  · rw [if_neg (by omega), if_pos hpast]

theorem argError_setChannel_of_range {channel : Int} (on : Bool) (h : channel < 1 ∨ 8 < channel) :
    argError (.setChannel channel on) = some .channelRange :=
  if_pos h

theorem argError_setAll_of_length {states : List Bool} (h : states.length ≠ 8) :
    argError (.setAll states) = some .statesLength :=
  if_pos h

/-! ### Past the argument check no argument error arises -/

/-- Every argument error among the results of `s` is already among `old`. -/
def ArgErrorsWithin (old : List (CallerId × Result)) (s : State) : Prop :=
  ∀ k sub, (k, Result.err (.argument sub)) ∈ s.results → (k, Result.err (.argument sub)) ∈ old

/-- Only the result port matters. -/
theorem ArgErrorsWithin.of_results_eq {old : List (CallerId × Result)} {s t : State} (h : ArgErrorsWithin old s)
    (ht : t.results = s.results) : ArgErrorsWithin old t :=
  fun k sub hk => h k sub (ht ▸ hk)

/-- One more result that is no argument error. -/
theorem ArgErrorsWithin.of_results_append {old : List (CallerId × Result)} {s t : State} {k : CallerId} {r : Result}
    (h : ArgErrorsWithin old s) (hr : ∀ sub, r ≠ .err (.argument sub)) (ht : t.results = s.results ++ [(k, r)]) :
    ArgErrorsWithin old t := by
  intro j sub hj
  rw [ht, List.mem_append, List.mem_singleton] at hj
  rcases hj with hold | hnew
  · exact h j sub hold
  · exact absurd (congrArg Prod.snd hnew).symm (hr sub)

/-- A response is never read as an argument error (42_relay_response.md R154 to R163). -/
theorem verdict_ne_argument (addr fc : Byte) (qty : Half) (frame : List Byte) (sub : ArgSub) :
    verdict addr fc qty frame ≠ .err (.argument sub) := by
  cases hcrc : crcValid frame with
  | false => simp [verdict_crc hcrc]
  | true =>
    by_cases haddr : byteAt frame 0 = addr
    · cases hexc : exceptionBit frame with
      | true =>
        rw [verdict_exception hcrc haddr hexc, resultException]
        split <;> simp
      | false =>
        by_cases hfc : byteAt frame 1 = fc
        · rw [verdict_result hcrc haddr hexc hfc, resultReadCoils, resultWriteSingle, resultWriteMultiple]
          split_ifs <;> simp
        · simp [verdict_function hcrc haddr hexc hfc]
    · simp [verdict_address hcrc haddr]

/-- A transaction that ends with no argument error delivers none. -/
theorem argErrorsWithin_finish {old : List (CallerId × Result)} {s : State} {r : Result} (h : ArgErrorsWithin old s)
    (hr : ∀ sub, r ≠ .err (.argument sub)) : ArgErrorsWithin old (finish r s) := by
  cases howner : s.lockOwner with
  | none =>
    rw [finish_of_free r howner]
    exact h.of_results_eq rfl
  | some k =>
    rw [finish_of_owner r howner]
    exact h.of_results_append hr rfl

theorem argErrorsWithin_awaitByte {old : List (CallerId × Result)} {s : State} (b : Byte) (h : ArgErrorsWithin old s) :
    ArgErrorsWithin old (awaitByte b s) := by
  rcases awaitByte_cases b s with ⟨-, hbuffered⟩ | ⟨-, hended⟩
  · rw [hbuffered]
    exact h.of_results_eq rfl
  · rw [hended]
    exact argErrorsWithin_finish (h.of_results_eq rfl) (verdict_ne_argument _ _ _ _)

theorem argErrorsWithin_decoderStart {old : List (CallerId × Result)} {s : State} (h : ArgErrorsWithin old s) :
    ArgErrorsWithin old (decoderStart s) := by
  rcases decoderStart_cases s with ⟨-, hstart⟩ | ⟨-, hstart⟩
  · rw [hstart]
    exact h.of_results_eq rfl
  · rw [hstart]
    exact feedPending_induction _ _ (h.of_results_eq rfl) (fun b _ _ ht => argErrorsWithin_awaitByte b ht)
      (fun _ _ _ ht => ht.of_results_eq rfl)

theorem argErrorsWithin_transmit {old : List (CallerId × Result)} {s : State} (c : BusCommand) (frame : List Byte)
    (h : ArgErrorsWithin old s) : ArgErrorsWithin old (transmit c frame s) := by
  rcases transmit_cases c frame s with ⟨-, hsent⟩ | ⟨j, -, hcut⟩
  · rw [hsent]
    exact argErrorsWithin_decoderStart (h.of_results_eq rfl)
  · rw [hcut]
    exact h.of_results_append (by simp) rfl

/-- Steps 3 to 7 of 41_relay_commands.md R120 deliver no argument error, not even from bytes kept before the transaction. -/
theorem argErrorsWithin_sendRequest {old : List (CallerId × Result)} {s : State} (c : BusCommand) (r : Request)
    (h : ArgErrorsWithin old s) : ArgErrorsWithin old (sendRequest c r s) := by
  rcases sendRequest_cases c r s with ⟨-, hgone⟩ | ⟨-, hheld⟩ | ⟨-, -, -, hfailed⟩ | ⟨-, -, hsend⟩
  · rw [hgone]
    exact h.of_results_append (by simp) rfl
  · rw [hheld]
    exact h.of_results_eq rfl
  · rw [hfailed]
    exact h.of_results_append (by simp) rfl
  · rw [hsend]
    exact argErrorsWithin_transmit c r.frame (h.of_results_eq rfl)

/-- A bus command with legal arguments adds no argument error to the results. -/
theorem exec_busInstr_adds_no_argError {c : BusCommand} (s : State) (h : legalArgs c) :
    ∃ t, exec (busInstr c) s = .next t ∧ ArgErrorsWithin s.results t := by
  have hself : ArgErrorsWithin s.results s := fun _ _ hk => hk
  refine ⟨_, exec_busInstr_of_legalArgs s h, ?_⟩
  split
  · exact argErrorsWithin_sendRequest c _ hself
  · exact hself.of_results_append (by simp) rfl

/-- Settles O9: each range violated is the first condition of R121 that applies, and past the check no branch of the command
raises an argument error. -/
theorem argumentsAreChecked : Obligations.ArgumentsAreChecked := fun s =>
  ⟨fun start _ h => exec_busInstr_of_argError s (argError_readCoils_of_count start h),
    fun _ _ hlow hhigh h => exec_busInstr_of_argError s (argError_readCoils_of_start hlow hhigh h),
    fun _ on h => exec_busInstr_of_argError s (argError_setChannel_of_range on h),
    fun _ h => exec_busInstr_of_argError s (argError_setAll_of_length h),
    fun _ h => exec_busInstr_adds_no_argError s h⟩

/-! ### The request registers -/

/-- `decoder_start()` leaves the request registers as they are, whatever the kept bytes complete. -/
theorem decoderStart_requestRegisters (s : State) :
    (decoderStart s).reqCmd = s.reqCmd ∧ (decoderStart s).reqAddr = s.reqAddr ∧ (decoderStart s).reqFc = s.reqFc ∧
      (decoderStart s).reqStart = s.reqStart ∧ (decoderStart s).reqQty = s.reqQty := by
  rcases decoderStart_cases s with ⟨-, hstart⟩ | ⟨-, hstart⟩
  · simp [hstart]
  · rw [hstart]
    obtain ⟨-, -, hcmd, haddr, hfc, hreg, hqty, -⟩ := feedPending_frame s.rxPending
      { s with rxBuf := [], rxExpect := if s.reqFc = fcReadCoils then none else some 8, phase := .awaitRsp, rxPending := [] }
    exact ⟨hcmd, haddr, hfc, hreg, hqty⟩

/-- A transmission, whole or cut short, leaves the request registers as they were written for it. -/
theorem transmit_requestRegisters (c : BusCommand) (frame : List Byte) (s : State) :
    (transmit c frame s).reqCmd = s.reqCmd ∧ (transmit c frame s).reqAddr = s.reqAddr ∧ (transmit c frame s).reqFc = s.reqFc ∧
      (transmit c frame s).reqStart = s.reqStart ∧ (transmit c frame s).reqQty = s.reqQty := by
  rcases transmit_cases c frame s with ⟨-, hsent⟩ | ⟨j, -, hcut⟩
  · rw [hsent]
    exact decoderStart_requestRegisters _
  · simp [hcut, ended]

/-- A request that finds the block idle and a port to send on writes its five registers (41_relay_commands.md R120 step 6). -/
theorem sendRequest_requestRegisters {s : State} (c : BusCommand) (r : Request) (hidle : s.phase = .idle)
    (hopen : s.portOpen = true ∨ s.answer.opening = .openOk) :
    (sendRequest c r s).reqCmd = r.cmd ∧ (sendRequest c r s).reqAddr = s.cfg.deviceAddr ∧ (sendRequest c r s).reqFc = r.fc ∧
      (sendRequest c r s).reqStart = r.start ∧ (sendRequest c r s).reqQty = r.qty := by
  rcases sendRequest_cases c r s with ⟨hp, -⟩ | ⟨hp, -⟩ | ⟨-, hclosed, hfail, -⟩ | ⟨-, -, hsend⟩
  · simp [hidle] at hp
  · simp [hidle] at hp
  · simp [hclosed, hfail] at hopen
  · rw [hsend]
    exact transmit_requestRegisters c r.frame (writeRequest r { s with portOpen := true })

/-- An integer in the range of a 16-bit register is narrowed without loss (30_encoding.md R81). -/
theorem toNat_narrow16 {v : Int} (h0 : 0 ≤ v) (hmax : v ≤ 65535) : ((narrow16 v).toNat : Int) = v := by
  rw [narrow16, BitVec.toNat_ofInt]
  omega

/-- Settles O22: the registers are those of the command's own request, whose integer operands are in range. -/
theorem requestRegistersAreWritten : Obligations.RequestRegistersAreWritten := by
  intro c s hargs hen hidle hopen
  obtain ⟨hcmd, haddr, hfc, hstart, hqty⟩ := sendRequest_requestRegisters c (requestOf s.cfg.deviceAddr c) hidle hopen
  refine ⟨sendRequest c (requestOf s.cfg.deviceAddr c) s, by rw [exec_busInstr_of_legalArgs s hargs, if_pos hen], haddr, ?_⟩
  cases c with
  | readCoils start count =>
    obtain ⟨hcount1, hcount, hstart0, hstartMax⟩ := hargs
    exact ⟨hcmd, hfc, hstart ▸ toNat_narrow16 hstart0 hstartMax, hqty ▸ toNat_narrow16 (by omega) (by omega)⟩
  | readAll => exact ⟨hcmd, hfc, hstart, hqty⟩
  | setChannel channel on =>
    obtain ⟨hlow, hhigh⟩ := hargs
    exact ⟨hcmd, hfc, hstart ▸ toNat_narrow16 (by omega) (by omega), hqty⟩
  | setAll states => exact ⟨hcmd, hfc, hstart, hqty⟩

end Sys2Proof.Proofs.BusCommands
end

section
/-! PROOFS. The decoder: the byte that completes a response, the checks on it and the results of the formats
(42_relay_response.md R154 to R163), and bytes outside a transaction (R165). -/

namespace Sys2Proof.Proofs.Responses

open Machine Safety

/-! ### The function-code byte -/

/-- `E` is set exactly in the upper half of the function-code bytes (30_encoding.md R72). -/
theorem exceptionBit_iff (frame : List Byte) : exceptionBit frame = true ↔ 0x80 ≤ (byteAt frame 1).toNat := by
  rw [exceptionBit, ← BitVec.msb_eq_getLsbD_last, BitVec.msb_eq_decide, decide_eq_true_iff]

/-- Bits 6:0 of the function-code byte are its remainder modulo 128 (30_encoding.md R72). -/
theorem baseFunction_eq_iff (frame : List Byte) (fc : Byte) :
    baseFunction frame = fc ↔ (byteAt frame 1).toNat % 128 = fc.toNat := by
  rw [← BitVec.toNat_inj, baseFunction, BitVec.toNat_and]
  exact Eq.congr_left (Nat.and_two_pow_sub_one_eq_mod _ 7)

/-- Bit 7 alone is set in the constant 0x80. -/
theorem getLsbD_exceptionMark (i : Nat) : (0x80 : Byte).getLsbD i = decide (i = 7) := by
  rw [show (0x80 : Byte) = BitVec.twoPow 8 7 from rfl, BitVec.getLsbD_twoPow]
  simp [eq_comm]

/-- The function-code byte of an exception reply has its bit 7 set (30_encoding.md R78). -/
theorem exceptionByte_bit (fc : BitVec 7) : (0x80 ||| fc.setWidth 8 : Byte).getLsbD 7 = true := by
  simp only [BitVec.getLsbD_or, getLsbD_exceptionMark, decide_true, Bool.true_or]

/-- Bits 6:0 of an exception reply's function-code byte are the base function (30_encoding.md R78). -/
theorem exceptionByte_base (fc : BitVec 7) : (0x80 ||| fc.setWidth 8 : Byte) &&& 0x7F = fc.setWidth 8 := by
  have hfc : fc.toNat < 128 := fc.isLt
  have hmark : (0x80 &&& 0x7F : Byte) = 0#8 := rfl
  apply BitVec.eq_of_toNat_eq
  rw [BitVec.and_or_distrib_right, hmark, BitVec.zero_or, BitVec.toNat_and, BitVec.toNat_setWidth]
  exact (Nat.and_two_pow_sub_one_eq_mod _ 7).trans (by omega)

/-- A byte with bit 7 set is the function-code byte of an exception reply for its other seven bits. -/
theorem exceptionByte_setWidth {b : Byte} (h : b.getLsbD 7 = true) : 0x80 ||| (b.setWidth 7).setWidth 8 = b :=
  BitVec.eq_of_getLsbD_eq fun i hi => by
    simp only [BitVec.getLsbD_or, getLsbD_exceptionMark, BitVec.getLsbD_setWidth, hi, decide_true, Bool.true_and]
    by_cases htop : i = 7
    · simp only [htop, decide_true, Bool.true_or, h]
    · have hlow : i < 7 := by omega
      simp only [htop, hlow, decide_true, decide_false, Bool.false_or, Bool.true_and]

/-! ### A complete frame while a response is awaited -/

/-- A response row runs as the arrival of its frame. -/
theorem exec_response {i : Instr} {addr dev : Byte} {frame : List Byte} (s : State) (hresp : responseAddress i = some addr)
    (henc : encode dev i = some frame) : exec i s = .next (receiveFrame frame s) := by
  cases i with
  | readCoilsResponse | writeSingleCoilResponse | writeMultipleCoilsResponse | exceptionResponse =>
    cases henc
    rfl
  | _ => cases hresp

/-- `interpret()` ends the transaction of the lock's owner with the verdict on the frame (42_relay_response.md R154). -/
theorem interpret_of_owner {s : State} {k : CallerId} (frame : List Byte) (howner : s.lockOwner = some k) :
    interpret frame s = ended k (verdict s.reqAddr s.reqFc s.reqQty frame) s := by
  rw [interpret_eq, finish_of_owner _ howner]

/-- A response row that arrives while a response is awaited ends the transaction with the verdict on its frame. -/
theorem exec_response_await {i : Instr} {addr dev : Byte} {frame : List Byte} {s : State} {k : CallerId}
    (hresp : responseAddress i = some addr) (henc : encode dev i = some frame) (hphase : s.phase = .awaitRsp)
    (howner : s.lockOwner = some k) :
    exec i s = .next (ended k (verdict s.reqAddr s.reqFc s.reqQty frame) s) := by
  rw [exec_response s hresp henc, receiveFrame_await frame hphase, interpret_of_owner frame howner]

/-- A body that decodes is the body of the frame of the response row it decodes to. -/
theorem encode_of_decodeResponseBody {reqFc : Byte} {body : List Byte} {i : Instr}
    (h : decodeResponseBody reqFc body = .ok i) (dev : Byte) :
    (∃ addr, responseAddress i = some addr) ∧ encode dev i = some (appendCrc body) := by
  revert h
  fun_cases decodeResponseBody reqFc body with
  | case1 addr fc hbit code extra =>
    rintro ⟨⟩
    exact ⟨⟨addr, rfl⟩, by rw [encode, frameException, exceptionByte_setWidth hbit]⟩
  | case4 addr bc data hcount =>
    rintro ⟨⟩
    exact ⟨⟨addr, rfl⟩, by rw [encode, frameReadResponse, ← hcount, BitVec.ofNat_toNat, BitVec.setWidth_eq]⟩
  | case7 | case9 =>
    rintro ⟨⟩
    exact ⟨⟨_, rfl⟩, rfl⟩
  | _ => rintro ⟨⟩

/-- A frame that decodes is the frame of the response row it decodes to. -/
theorem encode_of_decodeResponse {reqFc : Byte} {frame : List Byte} {i : Instr} (h : decodeResponse reqFc frame = .ok i)
    (dev : Byte) : (∃ addr, responseAddress i = some addr) ∧ encode dev i = some frame := by
  cases hcrc : crcValid frame with
  | false => simp [decodeResponse, hcrc] at h
  | true =>
    rw [decodeResponse, if_pos hcrc] at h
    rw [eq_appendCrc_of_crcValid hcrc]
    exact encode_of_decodeResponseBody h dev

/-- A complete response in `RX_BUF` is interpreted, whether or not it decodes (42_relay_response.md R154). -/
theorem runFrame_await {s : State} (h : s.phase = .awaitRsp) : runFrame s = .next (interpret s.rxBuf s) := by
  cases hdec : decodeResponse s.reqFc s.rxBuf with
  | error e => simp only [runFrame, hdec]
  | ok i =>
    obtain ⟨⟨addr, hresp⟩, henc⟩ := encode_of_decodeResponse hdec s.cfg.deviceAddr
    simp only [runFrame, hdec]
    rw [exec_response s hresp henc, receiveFrame_await _ h]

/-! ### The step that takes a byte -/

theorem step_rxByte {s : State} {b : Byte} {rest : List Event} (hin : s.inputs = .rxByte b :: rest) :
    step s = runByte b { s with inputs := rest } := by
  simp only [step, runNext, hin, runEvent]

/-- Past the header, the byte that makes the buffer as long as expected ends the transaction with the verdict on the buffer
(42_relay_response.md R151). -/
theorem runByte_complete {s : State} {k : CallerId} (b : Byte) (hphase : s.phase = .awaitRsp) (howner : s.lockOwner = some k)
    (hheader : 3 ≤ s.rxBuf.length) (hexpect : s.rxExpect = some (s.rxBuf.length + 1)) :
    runByte b s = .next (ended k (verdict s.reqAddr s.reqFc s.reqQty (s.rxBuf ++ [b])) s) := by
  have hcomplete : frameComplete { s with rxBuf := s.rxBuf ++ [b] } = true := by simp [frameComplete, hexpect]
  calc runByte b s
      = runFrame { s with rxBuf := s.rxBuf ++ [b] } := by
        rw [runByte, if_pos hphase, receiveByte_past_header b hheader, if_pos hcomplete]
    _ = .next (interpret (s.rxBuf ++ [b]) { s with rxBuf := s.rxBuf ++ [b] }) := runFrame_await hphase
    _ = .next (ended k (verdict s.reqAddr s.reqFc s.reqQty (s.rxBuf ++ [b])) s) :=
        congrArg Host.Outcome.next (interpret_of_owner _ howner)

/-! ### The checks -/

/-- Check 1 is the comparison of the CRCs alone for a frame that is long enough to carry one (42_relay_response.md R155). -/
theorem crcValid_eq_false_iff {frame : List Byte} (h : 2 ≤ frame.length) :
    crcValid frame = false ↔ crc16 (crcBody frame) ≠ crcCarried frame := by
  simp [crcValid, h]

/-- The checks in order, each in plain arithmetic on the bytes; the two formats after the last check give the same result
(42_relay_response.md R155 to R162). -/
theorem verdict_eq_checks (addr fc : Byte) (qty : Half) {frame : List Byte} (h : 2 ≤ frame.length) :
    verdict addr fc qty frame =
      if crc16 (crcBody frame) ≠ crcCarried frame then .err (.protocol .crcMismatch frame)
      else if byteAt frame 0 ≠ addr then .err (.protocol .addressMismatch frame)
      else if 0x80 ≤ (byteAt frame 1).toNat then
        (if (byteAt frame 1).toNat % 128 = fc.toNat then .err (.deviceException (byteAt frame 2) (byteAt frame 1) frame)
        else .err (.protocol .functionMismatch frame))
      else if byteAt frame 1 ≠ fc then .err (.protocol .functionMismatch frame)
      else if fc = fcReadCoils then resultReadCoils qty frame
      else .ok .unit :=
  if_congr (crcValid_eq_false_iff h) rfl <| if_congr Iff.rfl rfl <|
    if_congr (exceptionBit_iff frame) (if_congr (baseFunction_eq_iff frame fc) rfl rfl) <|
    if_congr Iff.rfl rfl <| if_congr Iff.rfl rfl (ite_self _)

/-- Settles O31: past the header the last byte brings `interpret()` on the whole buffer, which is long enough to carry a CRC,
so the verdict is that of the checks in plain arithmetic. -/
theorem completedFrameIsCheckedInOrder : Obligations.CompletedFrameIsCheckedInOrder := by
  intro s b k rest hphase howner hin hlen hexpect _ f n fc
  have hf : 2 ≤ f.length := by
    rw [List.length_append, List.length_singleton]
    omega
  have hheader : 3 ≤ s.rxBuf.length := by omega
  calc step s
      = runByte b { s with inputs := rest } := step_rxByte hin
    _ = .next (ended k (verdict s.reqAddr s.reqFc s.reqQty f) { s with inputs := rest }) :=
        runByte_complete b hphase howner hheader hexpect
    _ = _ := congrArg (fun r => Host.Outcome.next (ended k r { s with inputs := rest }))
        (verdict_eq_checks s.reqAddr s.reqFc s.reqQty hf)

/-! ### The result of each format -/

/-- A frame with the right address and the function code that was sent gets its format's result. -/
theorem verdict_appendCrc_result (addr : Byte) {fc : Byte} (qty : Half) (payload : List Byte) (hfc : fc.getLsbD 7 = false) :
    verdict addr fc qty (appendCrc (addr :: fc :: payload)) =
      if fc = fcReadCoils then resultReadCoils qty (appendCrc (addr :: fc :: payload))
      else if fc = fcWriteSingleCoil then resultWriteSingle else resultWriteMultiple :=
  verdict_result (crcValid_appendCrc _) rfl hfc rfl

/-- Coil i is bit `i mod 8` of data byte `i div 8` (42_relay_response.md R164). -/
theorem getD_unpack (data : List Byte) {i q : Nat} (h : i < q) :
    (unpack data q).getD i false = (data.getD (i / 8) 0).getLsbD (i % 8) := by
  simp [unpack, List.getD, h]

/-- An `RSP_RD` with the byte count that the request needs gives its coils (42_relay_response.md R160). -/
theorem resultReadCoils_frame (addr : Byte) {data : List Byte} {qty : Half} (hmax : data.length ≤ 255)
    (hcount : data.length = (qty.toNat + 7) / 8) :
    resultReadCoils qty (frameReadResponse addr data) = .ok (.coils (unpack data qty.toNat)) := by
  have hbc : (byteAt (frameReadResponse addr data) 2).toNat = data.length :=
    (BitVec.toNat_ofNat ..).trans (Nat.mod_eq_of_lt (by omega))
  have hdata : ((frameReadResponse addr data).drop 3).take data.length = data := List.take_left
  have hneed : ¬ data.length ≠ ceilDiv8 qty.toNat := not_not_intro hcount
  rw [resultReadCoils, hbc, hdata, if_neg hneed]

/-- Settles O25: the frame passes every check, and its coils are those of R164. -/
theorem readCoilsResponseResult : Obligations.ReadCoilsResponseResult := by
  intro addr data s k hphase howner haddr hfc hmax hcount
  refine ⟨unpack data s.reqQty.toNat, by simp [unpack], fun i hi => getD_unpack data hi, ?_⟩
  have hverdict : verdict addr 0x01 s.reqQty (frameReadResponse addr data) = .ok (.coils (unpack data s.reqQty.toNat)) :=
    (verdict_appendCrc_result addr s.reqQty _ rfl).trans (resultReadCoils_frame addr hmax hcount)
  rw [exec_response_await (dev := addr) rfl rfl hphase howner, haddr, hfc, hverdict]

/-- Settles O26: the frame passes every check, and its format's result reads none of the bytes 2..5. -/
theorem writeSingleResponseResult : Obligations.WriteSingleResponseResult := by
  intro addr b2 b3 b4 b5 s k hphase howner haddr hfc
  have hverdict : verdict addr 0x05 s.reqQty (frameWriteSingleResponse addr b2 b3 b4 b5) = .ok .unit :=
    verdict_appendCrc_result addr s.reqQty _ rfl
  rw [exec_response_await (dev := addr) rfl rfl hphase howner, haddr, hfc, hverdict]

/-- Settles O27: the frame passes every check, and its format's result reads none of the bytes 2..5. -/
theorem writeMultipleResponseResult : Obligations.WriteMultipleResponseResult := by
  intro addr b2 b3 b4 b5 s k hphase howner haddr hfc
  have hverdict : verdict addr 0x0F s.reqQty (frameWriteMultipleResponse addr b2 b3 b4 b5) = .ok .unit :=
    verdict_appendCrc_result addr s.reqQty _ rfl
  rw [exec_response_await (dev := addr) rfl rfl hphase howner, haddr, hfc, hverdict]

/-- Settles O28: bit 7 sends the frame to check 3, and bits 6:0 of its function-code byte are the base function. -/
theorem exceptionResponseResult : Obligations.ExceptionResponseResult := by
  intro addr fc code extra s k hphase howner haddr
  have hverdict : verdict addr s.reqFc s.reqQty (frameException addr fc code extra) =
      resultException s.reqFc (frameException addr fc code extra) :=
    verdict_exception (crcValid_appendCrc _) rfl (exceptionByte_bit fc)
  have hbase : baseFunction (frameException addr fc code extra) = fc.setWidth 8 := exceptionByte_base fc
  rw [exec_response_await (dev := addr) rfl rfl hphase howner, haddr, hverdict, resultException, hbase]
  rfl

/-! ### Bytes outside a transaction -/

/-- Settles O35: outside a transaction the step hands the byte to R165. -/
theorem strayByteIsKeptOrDropped : Obligations.StrayByteIsKeptOrDropped := by
  intro s b rest hphase hin
  rw [step_rxByte hin, runByte, if_neg hphase, strayByte_eq]

end Sys2Proof.Proofs.Responses
end

section
/-! PROOFS. How a transaction ends other than by its response (43_relay_transaction.md R195). -/

namespace Sys2Proof.Proofs.Transactions

open Machine Safety

/-! ### A failure of the serial handle -/

theorem step_ioFault {s : State} {rest : List Event} (hin : s.inputs = .ioFault :: rest) :
    step s = .next (ioFaultEvent { s with inputs := rest }) := by
  simp only [step, runNext, hin, runEvent]

theorem ioFaultEvent_await {s : State} {k : CallerId} (hphase : s.phase = .awaitRsp) (howner : s.lockOwner = some k) :
    ioFaultEvent s = ended k (.err (.connection .ioFault)) s :=
  (if_pos hphase).trans (finish_of_owner _ howner)

theorem ioFaultEvent_of_not_await {s : State} (hphase : s.phase ≠ .awaitRsp) : ioFaultEvent s = s :=
  if_neg hphase

/-- Settles O37: taking the event off the schedule changes neither the phase nor the owner of the lock, and these decide what
the event does. -/
theorem ioFaultEndsTransaction : Obligations.IoFaultEndsTransaction := by
  intro s rest hin
  rw [step_ioFault hin]
  constructor
  · intro k hphase howner
    exact congrArg Host.Outcome.next (ioFaultEvent_await hphase howner)
  · intro hphase
    exact congrArg Host.Outcome.next (ioFaultEvent_of_not_await hphase)

end Sys2Proof.Proofs.Transactions
end

section
/-! PROOFS. The numeric codes of the results and the retryable kinds (60_exceptions.md R220, R221). -/

namespace Sys2Proof.Proofs.Codes

open Machine

/-- The code of an error is read off its kind alone (60_exceptions.md R220). -/
theorem resultCode_err (e : BusError) : resultCode (.err e) = kindCode (errorKind e) := rfl

/-- The retryable kinds are `Timeout` and `ConnectionError` (60_exceptions.md R220, R229), told by their codes. -/
theorem retryable_iff_kindCode (kind : ErrorKind) : retryable kind = true ↔ kindCode kind = 2 ∨ kindCode kind = 4 := by
  cases kind with
  | timeout => exact iff_of_true rfl (.inl rfl)
  | connectionError => exact iff_of_true rfl (.inr rfl)
  | argumentError | protocolError | configError => decide

/-- Settles O59: the codes and the subcodes are the entries of the two tables, and whether an error is retryable depends on its
kind only, as its code does. -/
theorem resultCodes : Obligations.ResultCodes := by
  have hretry : ∀ e : BusError, retryable (errorKind e) = true ↔ resultCode (.err e) = 2 ∨ resultCode (.err e) = 4 := by
    intro e
    rw [resultCode_err]
    exact retryable_iff_kindCode (errorKind e)
  refine ⟨fun _ => rfl, fun _ => rfl, fun _ => ⟨rfl, rfl⟩, fun _ _ _ _ => ⟨rfl, rfl⟩, fun _ => rfl, rfl, hretry, ?subcodes⟩
  case subcodes =>
    exact ⟨rfl, rfl, rfl, rfl, rfl, fun _ => ⟨rfl, rfl⟩, fun _ => ⟨rfl, rfl, rfl, rfl⟩, fun _ _ _ => rfl, rfl, rfl, rfl, rfl⟩

end Sys2Proof.Proofs.Codes
end

section
/-! PROOFS. The algebra of the CRC: the pseudocode of 40_checksum.md R101 and the five laws of R106. -/

namespace Sys2Proof.Proofs.CrcLaws

open Machine Safety

/-! ### Concatenation, and the CRC of a whole frame -/

theorem crc16_append (a b : List Byte) : crc16 (a ++ b) = crcFrom (crc16 a) b :=
  crcFrom_append 0xFFFF a b

/-- Settles O2: the definitions spell the pseudocode out, and the check value is evaluated. -/
theorem crcFollowsPseudocode : Obligations.CrcFollowsPseudocode :=
  ⟨fun _ _ => rfl, rfl, fun bytes b => crc16_append bytes [b], by decide +kernel⟩

/-- Turns that find a 0 in the lowest bit only shift. -/
theorem crcShifts_of_low_zero (n : Nat) (x : Half) (h : ∀ i < n, x.getLsbD i = false) : crcShifts n x = x >>> n := by
  induction n generalizing x with
  | zero => simp [crcShifts]
  | succ n ih =>
    have hfirst : crcShift x = x >>> 1 := if_neg (by rw [h 0 n.succ_pos]; decide)
    have hrest : ∀ i < n, (x >>> 1).getLsbD i = false := fun i hi => by
      simpa [Nat.add_comm] using h (i + 1) (Nat.succ_lt_succ hi)
    rw [crcShifts, hfirst, ih _ hrest, ← BitVec.shiftRight_add, Nat.add_comm]

/-- The low byte of the register entering it moves the high byte down. -/
theorem crcStep_low_byte (c : Half) : crcStep c (c.setWidth 8) = c >>> 8 := by
  have hlow : ∀ i < 8, (c ^^^ (c.setWidth 8 : Byte).setWidth 16).getLsbD i = false := fun i hi => by
    have hi16 : i < 16 := hi.trans (by decide)
    simp [hi, hi16]
  have hgone : ((c.setWidth 8 : Byte).setWidth 16 : Half) >>> 8 = 0#16 := by
    apply BitVec.eq_of_toNat_eq
    have hc : c.toNat % 256 < 256 := Nat.mod_lt _ (by decide)
    simp [Nat.shiftRight_eq_div_pow]
    omega
  rw [crcStep, crcShifts_of_low_zero 8 _ hlow, BitVec.ushiftRight_xor_distrib, hgone, BitVec.xor_zero]

/-- A register that holds one byte is emptied by that byte. -/
theorem crcStep_high_byte (c : Half) : crcStep (c >>> 8) ((c >>> 8).setWidth 8) = 0 := by
  have hfits : (((c >>> 8).setWidth 8 : Byte).setWidth 16 : Half) = c >>> 8 := by
    apply BitVec.eq_of_toNat_eq
    have hc : c.toNat < 65536 := c.isLt
    simp [Nat.shiftRight_eq_div_pow]
    omega
  rw [crcStep, hfits, BitVec.xor_self]
  rfl

/-- R106 law (3): the CRC field brings the register to 0. -/
theorem crc16_appendCrc (b : List Byte) : crc16 (appendCrc b) = 0 := by
  rw [appendCrc, crc16_append, crcField, crcFrom_cons, crcFrom_cons, crcStep_low_byte, crcStep_high_byte, crcFrom_nil]

/-- Settles O4: law (3) is `crc16_appendCrc`, law (4) is the fold over a concatenation. -/
theorem crcOfFrameAndOfConcatenation : Obligations.CrcOfFrameAndOfConcatenation :=
  ⟨crc16_appendCrc, crc16_append⟩

/-! ### One byte, and one bit, tells frames apart -/

theorem crcStep_injective_register (b : Byte) : Function.Injective fun c : Half => crcStep c b := fun _ _ h =>
  (BitVec.xor_left_inj _).mp (crcShifts_injective 8 h)

theorem crcStep_injective_byte (c : Half) : Function.Injective fun b : Byte => crcStep c b := fun x y h => by
  have hwide : (x.setWidth 16 : Half) = y.setWidth 16 := (BitVec.xor_right_inj _).mp (crcShifts_injective 8 h)
  simpa using congrArg (fun v : Half => (v.setWidth 8 : Byte)) hwide

theorem crcFrom_injective (bytes : List Byte) : Function.Injective fun c => crcFrom c bytes := by
  induction bytes with
  | nil => exact fun _ _ h => h
  | cons b rest ih => exact fun _ _ h => crcStep_injective_register b (ih h)

/-- Byte sequences of one length that differ in one byte have different CRCs (R106 law 5). -/
theorem crc16_ne_of_byte_ne (a z : List Byte) {x y : Byte} (h : x ≠ y) : crc16 (a ++ x :: z) ≠ crc16 (a ++ y :: z) := by
  intro heq
  rw [crc16_append, crc16_append, crcFrom_cons, crcFrom_cons] at heq
  exact h (crcStep_injective_byte _ (crcFrom_injective z heq))

/-- Settles O5: every turn of the inner loop is injective, so `crc_step` is, on the finite set of registers and on bytes. -/
theorem crcSeparatesOneByte : Obligations.CrcSeparatesOneByte :=
  ⟨fun b => Finite.injective_iff_bijective.mp (crcStep_injective_register b), fun a z _ _ h => crc16_ne_of_byte_ne a z h⟩

/-- A flipped bit changes the byte it stands in. -/
theorem xor_bit_ne (x : Byte) {i : Nat} (hi : i < 8) : x ≠ x ^^^ (1 <<< i) := by
  intro h
  have hmask : ((1 <<< i : Nat) : Byte) = 0 := xor_left_eq_self_iff.mp h.symm
  have hbit : ((1 <<< i : Nat) : Byte).getLsbD i = true := by
    rw [BitVec.natCast_eq_ofNat, BitVec.getLsbD_ofNat]
    simp [hi]
  simp [hmask] at hbit

/-- A frame with one bit flipped has another CRC. -/
theorem crc16_flipBit_ne {frame : List Byte} {i : Nat} (hi : i < 8 * frame.length) :
    crc16 frame ≠ crc16 (flipBit frame i) := by
  have hbyte : i / 8 < frame.length := by omega
  have hsplit : frame = frame.take (i / 8) ++ frame.getD (i / 8) 0 :: frame.drop (i / 8 + 1) := by
    rw [List.getD_eq_getElem _ _ hbyte, List.getElem_cons_drop, List.take_append_drop]
  have hflip : flipBit frame i =
      frame.take (i / 8) ++ (frame.getD (i / 8) 0 ^^^ (1 <<< (i % 8))) :: frame.drop (i / 8 + 1) := by
    rw [flipBit, List.set_eq_take_append_cons_drop, if_pos hbyte]
  rw [hflip]
  conv_lhs => rw [hsplit]
  exact crc16_ne_of_byte_ne _ _ (xor_bit_ne _ (Nat.mod_lt i (by decide)))

/-- A frame that passes the frame test has CRC 0. -/
theorem crc16_of_crcValid {frame : List Byte} (h : crcValid frame = true) : crc16 frame = 0 := by
  rw [eq_appendCrc_of_crcValid h]
  exact crc16_appendCrc _

/-- Settles O3: a frame with its CRC appended has CRC 0, and so has every frame that passes the test; one flipped bit leaves
another CRC. -/
theorem appendedCrcValidatesAndFlipsAreDetected : Obligations.AppendedCrcValidatesAndFlipsAreDetected := by
  intro b s
  refine ⟨by rw [Checksum.exec_crcValidate, crcValid_appendCrc], fun i hi => ?_⟩
  have hbad : crcValid (flipBit (appendCrc b) i) = false := by
    by_contra hvalid
    have hzero : crc16 (flipBit (appendCrc b) i) = 0 := crc16_of_crcValid (by simpa using hvalid)
    exact crc16_flipBit_ne hi ((crc16_appendCrc b).trans hzero.symm)
  rw [Checksum.exec_crcValidate, hbad]

end Sys2Proof.Proofs.CrcLaws
end

section
/-! PROOFS. Decoding and encoding are inverse, for requests and for responses (30_encoding.md R70 to R82). -/

namespace Sys2Proof.Proofs.Encodings

open Machine Safety

/-! ### Fields -/

/-- A two-byte field is read as it was sent (20_memory.md R53). -/
theorem readField16_bytes (v : Half) : readField16 (hiByte v) (loByte v) = v :=
  (BitVec.or_comm _ _).trans (crc_bytes v)

/-- Two bytes read as a field are sent as they were received (20_memory.md R53). -/
theorem field16_readField16 (h l : Byte) : field16 (readField16 h l) = [h, l] := by
  obtain ⟨hlow, hhigh⟩ := bytes_of_crc l h
  rw [readField16, BitVec.or_comm, field16, hiByte, loByte, hlow, hhigh]

/-- A byte below 8 survives the three bits of a coil address (30_encoding.md R74). -/
theorem coil_setWidth_of_lt {b : Byte} (h : b.toNat < 8) : ((b.setWidth 3 : BitVec 3).setWidth 8 : Byte) = b := by
  apply BitVec.eq_of_toNat_eq
  simp only [BitVec.toNat_setWidth]
  omega

/-- Bits 6:0 of an exception reply's function-code byte (30_encoding.md R78). -/
theorem exceptionByte_setWidth7 (fc : BitVec 7) : ((0x80 ||| fc.setWidth 8 : Byte).setWidth 7) = fc := by
  have hmark : ((0x80 : Byte).setWidth 7) = 0#7 := rfl
  rw [BitVec.setWidth_or, hmark, BitVec.zero_or, BitVec.setWidth_setWidth_of_le _ (by decide), BitVec.setWidth_eq]

/-! ### The decoders on a sealed body -/

theorem decodeRequest_appendCrc (addr : Byte) (body : List Byte) :
    decodeRequest addr (appendCrc body) = decodeRequestBody addr body := by
  rw [decodeRequest, if_pos (crcValid_appendCrc body), crcBody_appendCrc]

theorem decodeResponse_appendCrc (reqFc : Byte) (body : List Byte) :
    decodeResponse reqFc (appendCrc body) = decodeResponseBody reqFc body := by
  rw [decodeResponse, if_pos (crcValid_appendCrc body), crcBody_appendCrc]

/-! ### Requests -/

theorem decodeRequest_frameReadCoils (addr : Byte) (start qty : Half) :
    decodeRequest addr (frameReadCoils addr start qty) = .ok (.readCoilsRequest start qty) := by
  rw [frameReadCoils, decodeRequest_appendCrc]
  simp [decodeRequestBody, field16, readField16_bytes]

theorem decodeRequest_frameSetChannel (addr : Byte) (coil : BitVec 3) (on : Bool) :
    decodeRequest addr (frameSetChannel addr coil on) = .ok (.setChannelRequest coil on) := by
  rw [frameSetChannel, decodeRequest_appendCrc]
  have hcoil : coil.toNat < 8 := coil.isLt
  have hlow : coil.toNat % 256 < 8 := by omega
  have hoff : coilValue false ≠ coilValue true := by decide
  cases on with
  | true => simp [decodeRequestBody, field16, readField16_bytes, hlow]
  | false => simp [decodeRequestBody, field16, readField16_bytes, hlow, hoff]

theorem decodeRequest_frameSetAll (addr data : Byte) :
    decodeRequest addr (frameSetAll addr data) = .ok (.setAllRequest data) := by
  rw [frameSetAll, decodeRequest_appendCrc]
  simp [decodeRequestBody, readField16]

/-- Settles O54: each of the three request formats is read back. -/
theorem requestsDecodeAsEncoded : Obligations.RequestsDecodeAsEncoded := by
  intro addr i frame hreq _ henc
  cases i with
  | readCoilsRequest start qty => cases henc; exact decodeRequest_frameReadCoils addr start qty
  | setChannelRequest coil on => cases henc; exact decodeRequest_frameSetChannel addr coil on
  | setAllRequest data => cases henc; exact decodeRequest_frameSetAll addr data
  | _ => cases hreq

/-! ### Responses -/

/-- `BC` is one byte, so it counts up to 255 data bytes (30_encoding.md R77). -/
theorem decodeResponse_frameReadResponse (addr : Byte) {data : List Byte} (h : data.length ≤ 255) :
    decodeResponse 0x01 (frameReadResponse addr data) = .ok (.readCoilsResponse addr data) := by
  have hcount : data.length % 256 = data.length := Nat.mod_eq_of_lt (by omega)
  rw [frameReadResponse, decodeResponse_appendCrc]
  simp [decodeResponseBody, hcount]

theorem decodeResponse_frameWriteSingleResponse (addr b2 b3 b4 b5 : Byte) :
    decodeResponse 0x05 (frameWriteSingleResponse addr b2 b3 b4 b5) = .ok (.writeSingleCoilResponse addr b2 b3 b4 b5) :=
  decodeResponse_appendCrc _ _

theorem decodeResponse_frameWriteMultipleResponse (addr b2 b3 b4 b5 : Byte) :
    decodeResponse 0x0F (frameWriteMultipleResponse addr b2 b3 b4 b5) = .ok (.writeMultipleCoilsResponse addr b2 b3 b4 b5) :=
  decodeResponse_appendCrc _ _

/-- An exception reply is read back whatever function code was sent (30_encoding.md R79). -/
theorem decodeResponse_frameException (reqFc addr : Byte) (fc : BitVec 7) (code : Byte) (extra : List Byte) :
    decodeResponse reqFc (frameException addr fc code extra) = .ok (.exceptionResponse addr fc code extra) := by
  rw [frameException, decodeResponse_appendCrc, decodeResponseBody, if_pos (Responses.exceptionByte_bit fc),
    exceptionByte_setWidth7]

/-- Settles O55: each of the four response formats is read back by the request it answers. -/
theorem responsesDecodeAsEncoded : Obligations.ResponsesDecodeAsEncoded := by
  intro addr reqFc i frame hwf hanswers henc
  cases i with
  | readCoilsResponse sender data =>
    cases henc
    cases hanswers
    exact decodeResponse_frameReadResponse sender (of_decide_eq_true hwf)
  | writeSingleCoilResponse sender b2 b3 b4 b5 =>
    cases henc
    cases hanswers
    exact decodeResponse_frameWriteSingleResponse sender b2 b3 b4 b5
  | writeMultipleCoilsResponse sender b2 b3 b4 b5 =>
    cases henc
    cases hanswers
    exact decodeResponse_frameWriteMultipleResponse sender b2 b3 b4 b5
  | exceptionResponse sender fc code extra =>
    cases henc
    exact decodeResponse_frameException reqFc sender fc code extra
  | _ => exact hanswers.elim

/-! ### Frames that decode -/

/-- The frame of `REQ_WR1` from the bytes it is read from (30_encoding.md R74). -/
theorem frameSetChannel_of_bytes (addr : Byte) {coilLo valHi valLo : Byte} {on : Bool} (hcoil : coilLo.toNat < 8)
    (hval : readField16 valHi valLo = coilValue on) :
    frameSetChannel addr (coilLo.setWidth 3) on = appendCrc [addr, fcWriteSingleCoil, 0, coilLo, valHi, valLo] := by
  rw [frameSetChannel, ← hval, field16_readField16, coil_setWidth_of_lt hcoil]
  rfl

/-- The frame of `REQ_WRN` from the bytes it is read from (30_encoding.md R75). -/
theorem frameSetAll_of_bytes (addr data : Byte) {startHi startLo qtyHi qtyLo : Byte} (hstart : readField16 startHi startLo = 0)
    (hqty : readField16 qtyHi qtyLo = 8) :
    frameSetAll addr data = appendCrc [addr, fcWriteMultipleCoils, startHi, startLo, qtyHi, qtyLo, 1, data] := by
  have hstartBytes : [startHi, startLo] = field16 0 := hstart ▸ (field16_readField16 _ _).symm
  have hqtyBytes : [qtyHi, qtyLo] = field16 8 := hqty ▸ (field16_readField16 _ _).symm
  cases hstartBytes
  cases hqtyBytes
  rfl

/-- A request body that decodes is the body of the frame of what it decodes to. -/
theorem encode_of_decodeRequestBody {addr : Byte} {body : List Byte} {i : Instr}
    (h : decodeRequestBody addr body = .ok i) : encode addr i = some (appendCrc body) := by
  revert h
  fun_cases decodeRequestBody addr body with
  | case2 a haddr startHi startLo qtyHi qtyLo =>
    rintro ⟨⟩
    rw [encode, frameReadCoils, field16_readField16, field16_readField16, not_ne_iff.mp haddr]
    rfl
  | case4 a haddr coilHi coilLo valHi valLo hbytes | case5 a haddr coilHi coilLo valHi valLo _ hbytes =>
    rintro ⟨⟩
    obtain ⟨rfl, hcoil, hval⟩ := hbytes
    rw [encode, frameSetChannel_of_bytes addr hcoil hval, not_ne_iff.mp haddr]
  | case8 a haddr startHi startLo qtyHi qtyLo bc data hconst =>
    rintro ⟨⟩
    obtain ⟨hstart, hqty, rfl⟩ := hconst
    rw [encode, frameSetAll_of_bytes addr data hstart hqty, not_ne_iff.mp haddr]
  | _ => rintro ⟨⟩

theorem encode_of_decodeRequest {addr : Byte} {frame : List Byte} {i : Instr} (h : decodeRequest addr frame = .ok i) :
    encode addr i = some frame := by
  cases hcrc : crcValid frame with
  | false => simp [decodeRequest, hcrc] at h
  | true =>
    rw [decodeRequest, if_pos hcrc] at h
    rw [eq_appendCrc_of_crcValid hcrc]
    exact encode_of_decodeRequestBody h

/-- Settles O56: a frame with a right CRC is its body sealed, and the fields read from the body are the ones it is made of. -/
theorem decodedFramesReencode : Obligations.DecodedFramesReencode :=
  ⟨fun _ _ _ h => encode_of_decodeRequest h, fun addr _ _ _ h => (Responses.encode_of_decodeResponse h addr).2⟩

/-- Settles O57: the six words are evaluated. -/
theorem writtenWordsDecode : Obligations.WrittenWordsDecode := by
  unfold Obligations.WrittenWordsDecode
  decide +kernel

end Sys2Proof.Proofs.Encodings
end

section
/-! PROOFS. The steps of the events, and the gate a bus command passes before it is sent (41_relay_commands.md R120,
43_relay_transaction.md R191, R192, R197). -/

namespace Sys2Proof.Proofs.Gate

open Machine Safety

/-! ### The step of each event -/

theorem step_wait {s : State} (hin : s.inputs = []) : step s = .next s := by
  simp only [step, runNext, hin]

theorem step_present_busy {s : State} {k : CallerId} {c : Command} {ans : EnvAnswer} {rest : List Event}
    (hin : s.inputs = .present k c ans :: rest) (hbusy : s.callerOf k ≠ .free) : step s = .refused .callerBusy := by
  simp only [step, runNext, hin, runEvent]
  exact runPresent_busy c ans hbusy

theorem step_takeUp_held {s : State} {k : CallerId} {c : HeldCommand} {ans : EnvAnswer} {rest : List Event}
    (hin : s.inputs = .takeUp k ans :: rest) (hheld : s.callerOf k = .held c) :
    step s = exec (resumeInstr c) (serve k ans { s with inputs := rest }) := by
  simp only [step, runNext, hin, runEvent]
  exact runTakeUp_held ans hheld

theorem step_takeUp_not_held {s : State} {k : CallerId} {ans : EnvAnswer} {rest : List Event}
    (hin : s.inputs = .takeUp k ans :: rest) (hnot : ∀ c, s.callerOf k ≠ .held c) :
    step s = .next { s with inputs := rest } := by
  simp only [step, runNext, hin, runEvent]
  exact runTakeUp_not_held ans hnot

theorem step_timeout {s : State} {rest : List Event} (hin : s.inputs = .timeout :: rest) :
    step s = .next (timeoutEvent { s with inputs := rest }) := by
  simp only [step, runNext, hin, runEvent]

/-- A byte while a response is awaited, complete frame or not, decodable or not, acts as the shared operation says
(42_relay_response.md R151). -/
theorem runByte_await {s : State} (b : Byte) (h : s.phase = .awaitRsp) : runByte b s = .next (awaitByte b s) := by
  simp only [runByte, awaitByte, if_pos h]
  split
  · exact Responses.runFrame_await h
  · rfl

theorem step_rxByte_await {s : State} {b : Byte} {rest : List Event} (hin : s.inputs = .rxByte b :: rest)
    (h : s.phase = .awaitRsp) : step s = .next (awaitByte b { s with inputs := rest }) :=
  (Responses.step_rxByte hin).trans (runByte_await b h)

theorem step_rxByte_stray {s : State} {b : Byte} {rest : List Event} (hin : s.inputs = .rxByte b :: rest)
    (h : s.phase ≠ .awaitRsp) : step s = .next (strayByte b { s with inputs := rest }) :=
  (Responses.step_rxByte hin).trans (if_neg h)

/-- Past the header, the byte that completes a frame of the request's format runs that response (42_relay_response.md R154). -/
theorem runByte_decoded {s : State} {b : Byte} {i : Instr} (hphase : s.phase = .awaitRsp) (hheader : 3 ≤ s.rxBuf.length)
    (hexpect : s.rxExpect = some (s.rxBuf.length + 1)) (hdec : decodeResponse s.reqFc (s.rxBuf ++ [b]) = .ok i) :
    runByte b s = exec i { s with rxBuf := s.rxBuf ++ [b] } := by
  have hcomplete : frameComplete { s with rxBuf := s.rxBuf ++ [b] } = true := by simp [frameComplete, hexpect]
  rw [runByte, if_pos hphase, receiveByte_past_header b hheader, if_pos hcomplete, runFrame]
  simp only [hdec]

/-- Settles O52: a caller that is not free is refused whatever it presents. -/
theorem busyCallerIsRefused : Obligations.BusyCallerIsRefused :=
  fun _ _ _ _ _ hin hbusy => step_present_busy hin hbusy

/-- Settles O53: presenting and taking up run the instruction for the served caller; past the header the byte joins `RX_BUF`
alone, the frame is complete, and what it decodes to runs. -/
theorem stepRunsTheDecodedInstruction : Obligations.StepRunsTheDecodedInstruction := by
  refine ⟨fun _ _ _ _ _ hin hfree => Checksum.step_present_free hin hfree,
    fun _ _ _ _ _ hin hheld => step_takeUp_held hin hheld, ?_⟩
  intro s b i rest hin hphase hheader hexpect hdec
  rw [Responses.step_rxByte hin]
  exact runByte_decoded (s := { s with inputs := rest }) hphase hheader hexpect hdec

/-! ### From step 3 of R120 on -/

theorem sendRequest_of_disposed {s : State} (c : BusCommand) (r : Request) (h : s.phase = .disposed) :
    sendRequest c r s = answered s.cur (.err (.connection .disposed)) s := by
  simp only [sendRequest, h, raise_eq_answered]

theorem sendRequest_of_locked {s : State} (c : BusCommand) (r : Request) (h : s.phase = .awaitRsp) :
    sendRequest c r s = s.setCaller s.cur (.held (.bus c)) := by
  simp only [sendRequest, h]

theorem sendRequest_of_openFail {s : State} (c : BusCommand) (r : Request) (h : s.phase = .idle) (hclosed : s.portOpen = false)
    (hfail : s.answer.opening = .openFail) :
    sendRequest c r s = answered s.cur (.err (.connection .openFailed)) s := by
  simp only [sendRequest, h, hclosed, hfail, and_self, if_true, raise_eq_answered]

/-- The request registers are written and the frame transmitted over the port, which is open or opens (R120 steps 5 to 7). -/
theorem sendRequest_of_open {s : State} (c : BusCommand) (r : Request) (h : s.phase = .idle)
    (hopen : s.portOpen = true ∨ s.answer.opening = .openOk) :
    sendRequest c r s = transmit c r.frame (writeRequest r { s with portOpen := true }) := by
  have hnot : ¬ (s.portOpen = false ∧ s.answer.opening = .openFail) := by
    rintro ⟨hclosed, hfail⟩
    simp [hclosed, hfail] at hopen
  simp only [sendRequest, h, if_neg hnot]

/-- An enabled block sends a bus command with legal arguments from step 3 of R120 on. -/
theorem exec_busInstr_of_enabled {c : BusCommand} {s : State} (hargs : legalArgs c) (hen : s.cfg.enabled = true) :
    exec (busInstr c) s = .next (sendRequest c (requestOf s.cfg.deviceAddr c) s) := by
  rw [BusCommands.exec_busInstr_of_legalArgs s hargs, if_pos hen]

/-- Settles O10: a command with legal arguments passes step 1 and fails step 2. -/
theorem disabledGivesConfigError : Obligations.DisabledGivesConfigError := by
  intro c s hargs hdis
  rw [BusCommands.exec_busInstr_of_legalArgs s hargs, hdis]
  rfl

/-- Settles O11: presented or taken up, the command comes to step 3. -/
theorem disposedGivesConnectionError : Obligations.DisposedGivesConnectionError := by
  intro c s hphase
  refine ⟨fun hargs hen => ?presented, ?takenUp⟩
  case presented => rw [exec_busInstr_of_enabled hargs hen, sendRequest_of_disposed c _ hphase]
  case takenUp =>
    obtain ⟨c', r, hexec⟩ := exec_resumeInstr_bus c s
    rw [hexec, sendRequest_of_disposed c' r hphase]

/-! ### Disposal -/

theorem exec_dispose_of_idle {s : State} (h : s.phase = .idle) :
    exec .dispose s = .next (answered s.cur (.ok .unit) { s with portOpen := false, rxPending := [], phase := .disposed }) := by
  simp only [exec, execDispose, h, complete_eq_answered]

theorem exec_dispose_of_locked {s : State} (h : s.phase = .awaitRsp) :
    exec .dispose s = .next (s.setCaller s.cur (.held .dispose)) := by
  simp only [exec, execDispose, h]

theorem exec_dispose_of_disposed {s : State} (h : s.phase = .disposed) :
    exec .dispose s = .next (answered s.cur (.ok .unit) s) := by
  simp only [exec, execDispose, h, complete_eq_answered]

/-- Settles O38: one equation for each of the two phases. -/
theorem disposeClosesThePort : Obligations.DisposeClosesThePort :=
  fun _ => ⟨exec_dispose_of_idle, exec_dispose_of_disposed⟩

/-- Settles O12: the command comes to step 4, and so does `DISPOSE`. -/
theorem lockedCommandIsHeld : Obligations.LockedCommandIsHeld := by
  intro s hphase
  refine ⟨fun c hargs hen => ?_, exec_dispose_of_locked hphase⟩
  rw [exec_busInstr_of_enabled hargs hen, sendRequest_of_locked c _ hphase]
  rfl

/-- Settles O14: the open attempt of step 5 fails. -/
theorem openFailureSendsNothing : Obligations.OpenFailureSendsNothing := by
  intro c s hargs hen hphase hclosed hfail
  rw [exec_busInstr_of_enabled hargs hen, sendRequest_of_openFail c _ hphase hclosed hfail]

/-! ### Taking up a held command -/

/-- The command a held bus command is sent as: its operands as its request frame carries them (30_encoding.md R81). -/
def resumed : BusCommand → BusCommand
  | .readCoils start count => .readCoils (narrow16 start).toNat (narrow16 count).toNat
  | .readAll => .readAll
  | .setChannel channel on => .setChannel (((narrow16 (channel - 1)).setWidth 3 : BitVec 3).toNat + 1) on
  | .setAll states => .setAll (unpack [pack states] 8)

/-- A command whose arguments passed R121 loses nothing in its frame. -/
theorem resumed_of_legalArgs {c : BusCommand} (h : legalArgs c) : resumed c = c := by
  cases c with
  | readCoils start count =>
    obtain ⟨hcount1, hcount, hstart0, hstart⟩ := h
    rw [resumed, BusCommands.toNat_narrow16 hstart0 hstart, BusCommands.toNat_narrow16 (by omega) (by omega)]
  | readAll => rfl
  | setChannel channel on =>
    obtain ⟨hlow, hhigh⟩ := h
    have hcoil : (((narrow16 (channel - 1)).setWidth 3 : BitVec 3).toNat : Int) + 1 = channel := by
      simp only [narrow16, BitVec.toNat_setWidth, BitVec.toNat_ofInt]
      omega
    rw [resumed, hcoil]
  | setAll states => rw [resumed, BusCommands.unpack_pack h]

/-- A narrowed field that is widened and narrowed again stays as it is. -/
theorem narrow16_toNat (v : Half) : narrow16 v.toNat = v := by
  rw [narrow16, BitVec.ofInt_natCast, BitVec.ofNat_toNat, BitVec.setWidth_eq]

/-- A coil address of three bits is the channel's number less one, widened (20_memory.md R52). -/
theorem narrow16_coil (coil : BitVec 3) : narrow16 ((coil.toNat : Int) + 1 - 1) = coil.setWidth 16 := by
  rw [Int.add_sub_cancel, narrow16, BitVec.ofInt_natCast]
  exact BitVec.ofNat_toNat ..

theorem requestOf_resumed_readCoils (addr : Byte) (start qty : Half) :
    requestOf addr (.readCoils start.toNat qty.toNat) =
      ⟨.readCoils, fcReadCoils, start, qty, frameReadCoils addr start qty⟩ := by
  simp only [requestOf, narrow16_toNat]

theorem requestOf_resumed_setChannel (addr : Byte) (coil : BitVec 3) (on : Bool) :
    requestOf addr (.setChannel (coil.toNat + 1) on) =
      ⟨.setChannel, fcWriteSingleCoil, coil.setWidth 16, 1, frameSetChannel addr coil on⟩ := by
  simp only [requestOf, narrow16_coil, BitVec.setWidth_setWidth_of_le _ (show 3 ≤ 16 by decide), BitVec.setWidth_eq]

theorem requestOf_resumed_setAll (addr data : Byte) :
    requestOf addr (.setAll (unpack [data] 8)) = ⟨.setAll, fcWriteMultipleCoils, 0, 8, frameSetAll addr data⟩ := by
  simp only [requestOf, BusCommands.pack_unpack]

/-- `REQ_RD` belongs to `READ_ALL` for a caller held with `READ_ALL` and its operands (41_relay_commands.md R123), to
`READ_COILS` otherwise. -/
theorem exec_readCoilsRequest (start qty : Half) (s : State) :
    exec (.readCoilsRequest start qty) s =
      .next (if s.callerOf s.cur = .held (.bus .readAll) ∧ start = 0 ∧ qty = 8 then
          sendRequest .readAll (requestOf s.cfg.deviceAddr .readAll) s
        else sendRequest (.readCoils start.toNat qty.toNat) (requestOf s.cfg.deviceAddr (.readCoils start.toNat qty.toNat)) s) := by
  rw [requestOf_resumed_readCoils, exec, execReadCoilsRequest, readCommandOf]
  split
  · rename_i h
    obtain ⟨-, rfl, rfl⟩ := h
    rfl
  · rfl

theorem exec_setChannelRequest (coil : BitVec 3) (on : Bool) (s : State) :
    exec (.setChannelRequest coil on) s =
      .next (sendRequest (.setChannel (coil.toNat + 1) on) (requestOf s.cfg.deviceAddr (.setChannel (coil.toNat + 1) on)) s) := by
  rw [requestOf_resumed_setChannel]
  rfl

theorem exec_setAllRequest (data : Byte) (s : State) :
    exec (.setAllRequest data) s =
      .next (sendRequest (.setAll (unpack [data] 8)) (requestOf s.cfg.deviceAddr (.setAll (unpack [data] 8))) s) := by
  rw [requestOf_resumed_setAll]
  rfl

/-- A held bus command that is taken up sends the request of the command it resumes as. -/
theorem exec_resumeInstr_of_held {c : BusCommand} {s : State} (h : s.callerOf s.cur = .held (.bus c)) :
    exec (resumeInstr (.bus c)) s = .next (sendRequest (resumed c) (requestOf s.cfg.deviceAddr (resumed c)) s) := by
  cases c with
  | readCoils start count =>
    rw [resumeInstr, exec_readCoilsRequest, if_neg (by simp [h])]
    rfl
  | readAll => rw [resumeInstr, exec_readCoilsRequest, if_pos ⟨h, rfl, rfl⟩]; rfl
  | setChannel channel on => exact exec_setChannelRequest _ on s
  | setAll states => exact exec_setAllRequest _ s

/-- Settles O15: taken up or presented, the command with its legal arguments is sent from step 3 of R120 on. -/
theorem takeUpActsAsPresenting : Obligations.TakeUpActsAsPresenting := by
  intro s k c ans rest hheld hargs hen hin
  have htaken := exec_resumeInstr_of_held (s := serve k ans { s with inputs := rest }) hheld
  rw [resumed_of_legalArgs hargs] at htaken
  rw [step_takeUp_held hin hheld, htaken]
  exact (exec_busInstr_of_enabled (s := serve k ans { s with inputs := rest }) hargs hen).symm

/-- What a held command resumes as is held again while the lock is. -/
theorem exec_resumeInstr_of_locked {h : HeldCommand} {s : State} (hphase : s.phase = .awaitRsp)
    (hheld : s.callerOf s.cur = .held h) (hargs : ∀ c, h = .bus c → legalArgs c) :
    exec (resumeInstr h) s = .next (s.setCaller s.cur (.held h)) := by
  cases h with
  | bus c =>
    rw [exec_resumeInstr_of_held hheld, resumed_of_legalArgs (hargs c rfl), sendRequest_of_locked c _ hphase]
  | dispose => exact exec_dispose_of_locked hphase

/-- Settles O13: the caller is held with the command it was held with, which leaves the canonical table as it is. -/
theorem takeUpWhileLockedWaits : Obligations.TakeUpWhileLockedWaits := by
  intro s k h ans rest hinv hphase hheld hin
  have hargs : ∀ c, h = .bus c → legalArgs c := by
    rintro c rfl
    exact (argError_eq_none c).mp (hinv.heldChecked k c hheld).1
  rw [step_takeUp_held hin hheld,
    exec_resumeInstr_of_locked (s := serve k ans { s with inputs := rest }) hphase hheld hargs]
  exact congrArg (fun t => Host.Outcome.next { serve k ans { s with inputs := rest } with callers := t })
    (callersSet_self hinv.callersCanonical hheld)

end Sys2Proof.Proofs.Gate
end

section
/-! PROOFS. Transmission: what a request that reaches the line sends and leaves (41_relay_commands.md R122 to R125,
43_relay_transaction.md R193, 30_encoding.md R87). -/

namespace Sys2Proof.Proofs.Transmission

open Machine Safety

/-! ### Reading a caller's state -/

theorem callerOf_setCaller (s : State) (k : CallerId) (c : CallerState) (j : CallerId) :
    (s.setCaller k c).callerOf j = if j = k then c else s.callerOf j :=
  callersGet_set s.callers j k c

theorem callerOf_answered (k : CallerId) (r : Result) (s : State) (j : CallerId) :
    (answered k r s).callerOf j = if j = k then .free else s.callerOf j :=
  callersGet_set s.callers j k .free

theorem callerOf_ended (k : CallerId) (r : Result) (s : State) (j : CallerId) :
    (ended k r s).callerOf j = if j = k then .free else s.callerOf j :=
  callersGet_set s.callers j k .free

theorem callerOf_awaiting (c : BusCommand) (fc : Byte) (frame : List Byte) (s : State) (j : CallerId) :
    (awaiting c fc frame s).callerOf j = if j = s.cur then .inflight c else s.callerOf j :=
  callersGet_set s.callers j s.cur (.inflight c)

/-! ### The frames sent -/

/-- The frame of `REQ_RD` for `READ_ALL` (41_relay_commands.md R123). -/
theorem frameReadCoils_all (addr : Byte) : frameReadCoils addr 0 8 = sealed [addr, 0x01, 0x00, 0x00, 0x00, 0x08] := rfl

/-- Settles O17: the request of `READ_ALL` is sent. -/
theorem readAllSendsRequest : Obligations.ReadAllSendsRequest := by
  intro s hen hclear
  rw [← frameReadCoils_all]
  exact RequestFrames.exec_busInstr_of_clear .readAll trivial hen hclear

/-- Settles O20: the data byte is `pack` of the states. -/
theorem setAllSendsRequest : Obligations.SetAllSendsRequest := fun states _ hlen hen hclear =>
  ⟨pack states, fun _ hi => BusCommands.getLsbD_pack states hi,
    RequestFrames.exec_busInstr_of_clear (.setAll states) hlen hen hclear⟩

/-- Settles O21: a request frame row runs as the sending of its command's request, whose frame it is. -/
theorem requestFramesAreSent : Obligations.RequestFramesAreSent := by
  intro s hclear
  refine ⟨fun start qty => ?read, fun coil on => ?single, fun data => ⟨unpack [data] 8, ?_, fun i hi => ?_, ?multiple⟩⟩
  case read =>
    rw [Gate.exec_readCoilsRequest, apply_ite Host.Outcome.next, RequestFrames.sendRequest_of_clear .readAll _ hclear,
      RequestFrames.sendRequest_of_clear (.readCoils _ _) _ hclear, Gate.requestOf_resumed_readCoils]
    rfl
  case single =>
    rw [Gate.exec_setChannelRequest, RequestFrames.sendRequest_of_clear _ _ hclear, Gate.requestOf_resumed_setChannel,
      frameSetChannel, RequestFrames.field16_coilValue]
    rfl
  case multiple =>
    rw [Gate.exec_setAllRequest, RequestFrames.sendRequest_of_clear _ _ hclear, Gate.requestOf_resumed_setAll]
    rfl
  · simp [unpack]
  · rw [Responses.getD_unpack [data] hi, Nat.div_eq_of_lt hi, Nat.mod_eq_of_lt hi, List.getD_cons_zero]

/-! ### The two outcomes of a transmission -/

/-- A whole transmission takes the lock, puts the frame out and starts the decoder (43_relay_transaction.md R193). -/
theorem transmit_of_sent {s : State} (c : BusCommand) (frame : List Byte) (h : s.answer.sending = .sent) :
    transmit c frame s = decoderStart { s with
      lockOwner := some s.cur, callers := callersSet s.callers s.cur (.inflight c), txLog := s.txLog ++ [frame] } := by
  rcases transmit_cases c frame s with ⟨-, hsent⟩ | ⟨j, hcut, -⟩
  · exact hsent
  · simp [h] at hcut

/-- A transmission cut short puts its first bytes out, if any, and ends the transaction (43_relay_transaction.md R193). -/
theorem transmit_of_writeTimeout {s : State} (c : BusCommand) (frame : List Byte) {j : Nat}
    (h : s.answer.sending = .writeTimeout j) :
    transmit c frame s = ended s.cur (.err (.timeoutWrite (min j frame.length))) { s with
      callers := callersSet s.callers s.cur (.inflight c)
      txLog := if 0 < min j frame.length then s.txLog ++ [frame.take (min j frame.length)] else s.txLog } := by
  rcases transmit_cases c frame s with ⟨hsent, -⟩ | ⟨j', hcut, hended⟩
  · simp [h] at hsent
  · rw [h] at hcut
    cases hcut
    exact hended

/-- The frame that a held bus command resumes as is the frame of its request. -/
theorem encode_resumeInstr_bus (addr : Byte) (c : BusCommand) :
    encode addr (resumeInstr (.bus c)) = some (requestOf addr c).frame := by
  cases c <;> rfl

/-- Settles O23: the request that is cut short is the command's own. -/
theorem writeTimeoutEndsTransaction : Obligations.WriteTimeoutEndsTransaction := by
  intro c s frame j hargs hen hidle hopen hcut henc hj
  have hframe : (requestOf s.cfg.deviceAddr c).frame = frame := by
    rw [encode_resumeInstr_bus] at henc
    exact Option.some.inj henc
  refine ⟨_, Gate.exec_busInstr_of_enabled hargs hen, ?_⟩
  rw [Gate.sendRequest_of_open c _ hidle hopen, hframe,
    transmit_of_writeTimeout (s := writeRequest _ { s with portOpen := true }) c frame hcut, Nat.min_eq_left hj]
  refine ⟨?log, rfl, ?freed, fun k hk => ?others, rfl, rfl, rfl, rfl, rfl, rfl, rfl, rfl⟩
  case log =>
    by_cases hj0 : j = 0
    · simp [ended, hj0]
    · simp [ended, hj0, Nat.pos_of_ne_zero hj0]
  case freed => exact (callerOf_ended ..).trans (if_pos rfl)
  case others => exact (callerOf_ended ..).trans ((if_neg hk).trans (callersGet_set_other s.callers (.inflight c) hk))

/-! ### `READ_ALL` and `READ_COILS 0, 8` -/

/-- Two states of one caller each, alike or waiting with `READ_ALL` in the one and with `READ_COILS 0, 8` in the other. -/
def callerTwins (c c' : CallerState) : Prop :=
  c = c' ∨ c = .held (.bus .readAll) ∧ c' = .held (.bus (.readCoils 0 8)) ∨
    c = .inflight .readAll ∧ c' = .inflight (.readCoils 0 8)

/-- `s` with another `REQ_CMD` and another table of callers. -/
def retagged (q : ReqCmd) (t : List (CallerId × CallerState)) (s : State) : State :=
  { s with reqCmd := q, callers := t }

/-- `u'` is `u` with `READ_COILS 0, 8` where `u` may have `READ_ALL`: in `REQ_CMD` and in the callers (30_encoding.md R87). -/
inductive ReadTwins (u : State) : State → Prop
  | intro (q : ReqCmd) (t : List (CallerId × CallerState)) (hcmd : u.reqCmd = q ∨ u.reqCmd = .readAll ∧ q = .readCoils)
      (hcallers : ∀ k, callerTwins (u.callerOf k) (callersGet t k)) : ReadTwins u (retagged q t u)

theorem ReadTwins.refl (s : State) : ReadTwins s s :=
  .intro s.reqCmd s.callers (.inl rfl) fun _ => .inl rfl

/-- Writing twin states of one caller keeps tables twins. -/
theorem callerTwins_set {t t' : List (CallerId × CallerState)} (k : CallerId) {c c' : CallerState} (hc : callerTwins c c')
    (h : ∀ j, callerTwins (callersGet t j) (callersGet t' j)) (j : CallerId) :
    callerTwins (callersGet (callersSet t k c) j) (callersGet (callersSet t' k c') j) := by
  rw [callersGet_set, callersGet_set]
  split
  · exact hc
  · exact h j

theorem ReadTwins.finish {u u' : State} (h : ReadTwins u u') (r : Result) : ReadTwins (finish r u) (finish r u') := by
  obtain ⟨q, t, hq, ht⟩ := h
  cases howner : u.lockOwner with
  | none =>
    rw [finish_of_free r howner, finish_of_free (s := retagged q t u) r howner]
    exact .intro q t hq ht
  | some k =>
    rw [finish_of_owner r howner, finish_of_owner (s := retagged q t u) r howner]
    exact .intro q _ hq (callerTwins_set k (c := .free) (.inl rfl) ht)

theorem ReadTwins.receiveByte {u u' : State} (h : ReadTwins u u') (b : Byte) :
    ReadTwins (receiveByte b u) (receiveByte b u') := by
  obtain ⟨q, t, hq, ht⟩ := h
  exact .intro q t hq ht

/-- Twins read a response alike. -/
theorem ReadTwins.awaitByte {u u' : State} (h : ReadTwins u u') (b : Byte) : ReadTwins (awaitByte b u) (awaitByte b u') := by
  have hnext := h.receiveByte b
  obtain ⟨q, t, -, -⟩ := h
  rcases awaitByte_cases b u with ⟨hopen, heq⟩ | ⟨hdone, heq⟩
  · have heq' : Machine.awaitByte b (retagged q t u) = Machine.receiveByte b (retagged q t u) :=
      if_neg (Bool.eq_false_iff.mp hopen)
    rwa [heq, heq']
  · have heq' : Machine.awaitByte b (retagged q t u) = Machine.finish
        (verdict u.reqAddr u.reqFc u.reqQty (u.rxBuf ++ [b])) (Machine.receiveByte b (retagged q t u)) := if_pos hdone
    rw [heq, heq']
    exact hnext.finish _

theorem ReadTwins.feedPending {u u' : State} (h : ReadTwins u u') (bytes : List Byte) :
    ReadTwins (feedPending bytes u) (feedPending bytes u') := by
  induction bytes generalizing u u' with
  | nil => exact h
  | cons b rest ih =>
    have hfed := ih (h.awaitByte b)
    obtain ⟨q, t, hq, ht⟩ := h
    by_cases hphase : u.phase = .awaitRsp
    · rwa [Machine.feedPending, Machine.feedPending, if_pos hphase, if_pos (show (retagged q t u).phase = _ from hphase)]
    · rw [Machine.feedPending, Machine.feedPending, if_neg hphase, if_neg (show (retagged q t u).phase ≠ _ from hphase)]
      exact .intro q t hq ht

theorem ReadTwins.decoderStart {u u' : State} (h : ReadTwins u u') : ReadTwins (decoderStart u) (decoderStart u') := by
  obtain ⟨q, t, hq, ht⟩ := h
  rcases decoderStart_cases u with ⟨hdiscard, hstart⟩ | ⟨hkeep, hstart⟩
  · rcases decoderStart_cases (retagged q t u) with ⟨-, hstart'⟩ | ⟨hkeep, -⟩
    · rw [hstart, hstart']
      exact .intro q t hq ht
    · cases hdiscard.symm.trans hkeep
  · rcases decoderStart_cases (retagged q t u) with ⟨hdiscard, -⟩ | ⟨-, hstart'⟩
    · cases hdiscard.symm.trans hkeep
    · rw [hstart, hstart']
      refine ReadTwins.feedPending ?_ u.rxPending
      exact .intro q t hq ht

/-- The two commands transmit one frame, and their transactions go on alike. -/
theorem ReadTwins.transmit {u u' : State} (h : ReadTwins u u') (frame : List Byte) :
    ReadTwins (transmit .readAll frame u) (transmit (.readCoils 0 8) frame u') := by
  obtain ⟨q, t, hq, ht⟩ := h
  have hinflight := callerTwins_set u.cur (.inr (.inr ⟨rfl, rfl⟩)) ht
  cases hsend : u.answer.sending with
  | sent =>
    rw [transmit_of_sent _ frame hsend, transmit_of_sent (s := retagged q t u) _ frame hsend]
    exact ReadTwins.decoderStart (.intro q _ hq hinflight)
  | writeTimeout j =>
    rw [transmit_of_writeTimeout _ frame hsend, transmit_of_writeTimeout (s := retagged q t u) _ frame hsend]
    exact .intro q _ hq (callerTwins_set u.cur (c := .free) (.inl rfl) hinflight)

/-- From step 3 of 41_relay_commands.md R120 on the two commands are treated alike. -/
theorem readTwins_sendRequest (s : State) :
    ReadTwins (sendRequest .readAll (requestOf s.cfg.deviceAddr .readAll) s)
      (sendRequest (.readCoils 0 8) (requestOf s.cfg.deviceAddr (.readCoils 0 8)) s) := by
  rcases sendRequest_cases .readAll (requestOf s.cfg.deviceAddr .readAll) s with
    ⟨hp, hgone⟩ | ⟨hp, hheld⟩ | ⟨hp, hclosed, hfail, hfailed⟩ | ⟨hp, hopen, hsend⟩
  · rw [hgone, Gate.sendRequest_of_disposed _ _ hp]
    exact .refl _
  · rw [hheld, Gate.sendRequest_of_locked _ _ hp]
    exact .intro s.reqCmd _ (.inl rfl) (callerTwins_set s.cur (.inr (.inl ⟨rfl, rfl⟩)) fun _ => .inl rfl)
  · rw [hfailed, Gate.sendRequest_of_openFail _ _ hp hclosed hfail]
    exact .refl _
  · rw [hsend, Gate.sendRequest_of_open _ _ hp hopen]
    exact ReadTwins.transmit (.intro .readCoils _ (.inr ⟨rfl, rfl⟩) fun _ => .inl rfl) (frameReadCoils s.cfg.deviceAddr 0 8)

/-- Settles O18: both commands pass the argument check, and the gate of R120 and everything after it treats them alike. -/
theorem readAllIsReadCoilsZeroEight : Obligations.ReadAllIsReadCoilsZeroEight := by
  intro s
  have htwins : ∃ t t', exec .readAll s = .next t ∧ exec (.readCoils 0 8) s = .next t' ∧ ReadTwins t t' := by
    refine ⟨_, _, BusCommands.exec_busInstr_of_legalArgs (c := .readAll) s trivial,
      BusCommands.exec_busInstr_of_legalArgs (c := .readCoils 0 8) s (by simp [legalArgs]), ?_⟩
    split
    · exact readTwins_sendRequest s
    · exact .refl _
  obtain ⟨t, _, hall, hzero, q, callers, hcmd, hcallers⟩ := htwins
  exact ⟨t, _, hall, hzero, rfl, hcmd, hcallers⟩

end Sys2Proof.Proofs.Transmission
end

section
/-! PROOFS. Reception byte by byte (42_relay_response.md R150 to R153), kept bytes (R150), stray and misaddressed responses
(R156, R165), and the time-out of a transaction (43_relay_transaction.md R194). -/

namespace Sys2Proof.Proofs.Reception

open Machine Safety

/-! ### Whole frames -/

/-- The frame of a response row begins with its address and is sealed. -/
theorem encode_response {i : Instr} {addr dev : Byte} {frame : List Byte} (hresp : responseAddress i = some addr)
    (henc : encode dev i = some frame) : ∃ body, frame = appendCrc (addr :: body) := by
  cases i with
  | readCoilsResponse | writeSingleCoilResponse | writeMultipleCoilsResponse | exceptionResponse =>
    cases hresp
    cases henc
    exact ⟨_, rfl⟩
  | _ => cases hresp

/-- Settles O29: the frame of a response row passes check 1 and fails check 2. -/
theorem wrongAddressIsMismatch : Obligations.WrongAddressIsMismatch := by
  intro i addr frame s k hresp henc hphase howner hne
  obtain ⟨body, rfl⟩ := encode_response hresp henc
  have haddr : byteAt (appendCrc (addr :: body)) 0 ≠ s.reqAddr := hne
  rw [Responses.exec_response_await hresp henc hphase howner, verdict_address (crcValid_appendCrc _) haddr]

/-- Settles O30: a response row runs as the arrival of its frame, whose bytes are stray. -/
theorem strayResponseIsNotInterpreted : Obligations.StrayResponseIsNotInterpreted := by
  intro i addr frame s hresp henc hphase
  rw [Responses.exec_response s hresp henc, receiveFrame_stray frame hphase, strayBytes_eq]

/-! ### The time-out -/

theorem timeoutEvent_await {s : State} {k : CallerId} (hphase : s.phase = .awaitRsp) (howner : s.lockOwner = some k) :
    timeoutEvent s = ended k (.err (.timeoutRead s.rxBuf.length)) s :=
  (if_pos hphase).trans (finish_of_owner _ howner)

theorem timeoutEvent_of_not_await {s : State} (hphase : s.phase ≠ .awaitRsp) : timeoutEvent s = s :=
  if_neg hphase

/-- Settles O36: the phase and the lock's owner decide what the event does. -/
theorem timeoutEndsTransaction : Obligations.TimeoutEndsTransaction := by
  intro s rest hin
  rw [Gate.step_timeout hin]
  exact ⟨fun k hphase howner => congrArg Host.Outcome.next (timeoutEvent_await hphase howner),
    fun hphase => congrArg Host.Outcome.next (timeoutEvent_of_not_await hphase)⟩

/-! ### Bytes that complete nothing -/

/-- Past the header the length of the response is settled (42_relay_response.md R152, R153). -/
theorem responseLength_append {policy : ExcLengthPolicy} {fc : Byte} {buf : List Byte} (h : 3 ≤ buf.length) (more : List Byte) :
    responseLength policy fc (buf ++ more) = responseLength policy fc buf := by
  have hbyte : ∀ i < 3, byteAt (buf ++ more) i = byteAt buf i := fun i hi => by
    simp [byteAt, List.getD, List.getElem?_append_left (hi.trans_le h)]
  have h2 : 2 ≤ buf.length := by omega
  have h3 : 3 ≤ buf.length + more.length := by omega
  have h4 : 2 ≤ buf.length + more.length := by omega
  simp only [responseLength, exceptionBit, hbyte 1 (by decide), hbyte 2 (by decide), List.length_append, h, h2, h3, h4]

/-- `RX_EXPECT` is what the bytes received so far determine (42_relay_response.md R150 to R153). -/
def ExpectsByLength (s : State) : Prop :=
  s.rxExpect = responseLength s.cfg.excLength s.reqFc s.rxBuf

/-- A decoder just started expects what no byte determines (42_relay_response.md R150). -/
theorem expectsByLength_of_decoderStarted {s : State} (h : decoderStarted s) : ExpectsByLength s := by
  obtain ⟨-, hbuf, hexpect⟩ := h
  rw [ExpectsByLength, hbuf, responseLength_nil]
  exact hexpect

/-- `s` after `bytes` have joined `RX_BUF`, with `rest` to come. -/
def buffered (rest : List Event) (bytes : List Byte) (s : State) : State :=
  { s with
    inputs := rest
    rxBuf := s.rxBuf ++ bytes
    rxExpect := responseLength s.cfg.excLength s.reqFc (s.rxBuf ++ bytes) }

theorem buffered_nil {s : State} (h : ExpectsByLength s) : buffered s.inputs [] s = s := by
  rw [buffered, List.append_nil, ← h]

theorem buffered_buffered (rest rest' : List Event) (bytes more : List Byte) (s : State) :
    buffered rest more (buffered rest' bytes s) = buffered rest (bytes ++ more) s := by
  simp only [buffered, List.append_assoc]

/-- Receiving a byte keeps `RX_EXPECT` at what the bytes determine. -/
theorem receiveByte_eq {s : State} (b : Byte) (h : ExpectsByLength s) : receiveByte b s = buffered s.inputs [b] s := by
  rw [receiveByte, h, updateExpect_responseLength, buffered]

theorem frameComplete_buffered (rest : List Event) (b : Byte) (s : State) :
    frameComplete (buffered rest [b] s) =
      decide (responseLength s.cfg.excLength s.reqFc (s.rxBuf ++ [b]) = some (s.rxBuf.length + 1)) := by
  simp only [frameComplete, buffered, List.length_append, List.length_singleton]

/-- A byte that does not complete the response only joins the buffer (42_relay_response.md R151). -/
theorem awaitByte_buffered {s : State} {b : Byte} (h : ExpectsByLength s)
    (hopen : responseLength s.cfg.excLength s.reqFc (s.rxBuf ++ [b]) ≠ some (s.rxBuf.length + 1)) :
    awaitByte b s = buffered s.inputs [b] s := by
  rcases awaitByte_cases b s with ⟨-, heq⟩ | ⟨hdone, -⟩
  · rw [heq, receiveByte_eq b h]
  · rw [receiveByte_eq b h, frameComplete_buffered, decide_eq_true_iff] at hdone
    exact absurd hdone hopen

theorem step_rxByte_buffered {s : State} {b : Byte} {rest : List Event} (hphase : s.phase = .awaitRsp)
    (h : ExpectsByLength s) (hin : s.inputs = .rxByte b :: rest)
    (hopen : responseLength s.cfg.excLength s.reqFc (s.rxBuf ++ [b]) ≠ some (s.rxBuf.length + 1)) :
    step s = .next (buffered rest [b] s) :=
  (Gate.step_rxByte_await hin hphase).trans
    (congrArg Host.Outcome.next (awaitByte_buffered (s := { s with inputs := rest }) h hopen))

/-- Settles O32: the invariant has `RX_EXPECT` at what the bytes determine. -/
theorem byteJoinsTheBuffer : Obligations.ByteJoinsTheBuffer :=
  fun _ _ _ hinv hphase hin hopen => step_rxByte_buffered hphase (hinv.expectExact hphase) hin hopen

/-- Bytes of which none completes the response all join the buffer, one step each. -/
theorem runSteps_buffered {bytes : List Byte} {s : State} {rest : List Event} (hphase : s.phase = .awaitRsp)
    (h : ExpectsByLength s) (hin : s.inputs = bytes.map Event.rxByte ++ rest)
    (hopen : ∀ j < bytes.length,
      responseLength s.cfg.excLength s.reqFc (s.rxBuf ++ bytes.take (j + 1)) ≠ some (s.rxBuf.length + (j + 1))) :
    runSteps bytes.length s = .next (buffered rest bytes s) := by
  induction bytes generalizing s with
  | nil => rw [← show s.inputs = rest from hin, buffered_nil h, List.length_nil, runSteps_zero]
  | cons b more ih =>
    have hfirst := step_rxByte_buffered hphase h hin (hopen 0 (by simp))
    have hlater := ih (s := buffered (more.map Event.rxByte ++ rest) [b] s) hphase rfl rfl fun j hj => by
      have hsum : s.rxBuf.length + 1 + (j + 1) = s.rxBuf.length + (j + 2) := by omega
      simpa [buffered, hsum] using hopen (j + 1) (by simpa using hj)
    rw [buffered_buffered] at hlater
    exact (runSteps_succ _ hfirst).trans hlater

/-! ### A whole response, byte by byte -/

theorem runSteps_add {m : Nat} {s t : State} (n : Nat) (h : runSteps m s = .next t) : runSteps (m + n) s = runSteps n t := by
  induction m generalizing s with
  | zero =>
    cases h
    rw [Nat.zero_add]
  | succ m ih =>
    cases hstep : step s with
    | next u =>
      rw [runSteps_succ m hstep] at h
      rw [Nat.add_right_comm, runSteps_succ _ hstep, ih h]
    | fault r => cases r
    | refused r => simp [runSteps, hstep] at h

/-- `s` with another decoder. -/
def withDecoder (buf : List Byte) (expect : Option Nat) (s : State) : State :=
  { s with rxBuf := buf, rxExpect := expect }

/-- The end of a transaction empties the decoder, whatever it holds (43_relay_transaction.md R196). -/
theorem finish_withDecoder (r : Result) (buf : List Byte) (expect : Option Nat) (s : State) :
    finish r (withDecoder buf expect s) = finish r s := by
  cases howner : s.lockOwner with
  | none =>
    rw [finish_of_free r howner, finish_of_free (s := withDecoder buf expect s) r howner]
    rfl
  | some k =>
    rw [finish_of_owner r howner, finish_of_owner (s := withDecoder buf expect s) r howner]
    rfl

/-- The byte that makes the buffer as long as the bytes determine brings `interpret()` on the buffer. -/
theorem awaitByte_complete {s : State} {b : Byte} (h : ExpectsByLength s)
    (hdone : responseLength s.cfg.excLength s.reqFc (s.rxBuf ++ [b]) = some (s.rxBuf.length + 1)) :
    awaitByte b s = interpret (s.rxBuf ++ [b]) s := by
  rcases awaitByte_cases b s with ⟨hopen, -⟩ | ⟨-, heq⟩
  · rw [receiveByte_eq b h, frameComplete_buffered, decide_eq_false_iff_not] at hopen
    exact absurd hdone hopen
  · rw [heq, interpret_eq]
    exact finish_withDecoder ..

/-- Short of its last byte, a response of the length its header determines is complete at no byte. -/
theorem responseLength_take_ne {policy : ExcLengthPolicy} {fc : Byte} {frame : List Byte} {j : Nat}
    (hlen : responseLength policy fc frame = some frame.length) (hj : j < frame.length) :
    responseLength policy fc (frame.take j) ≠ some j := by
  intro hdone
  obtain ⟨hj5, -⟩ := responseLength_bounds hdone
  have hheader : 3 ≤ (frame.take j).length := by
    rw [List.length_take]
    omega
  rw [← responseLength_append hheader (frame.drop j), List.take_append_drop, hlen] at hdone
  exact hj.ne (Option.some.inj hdone).symm

/-- Settles O33: all bytes but the last are buffered, and the last one brings `interpret()` on the whole frame, which is what
the response row runs as. -/
theorem deliveredResponseRunsOnce : Obligations.DeliveredResponseRunsOnce := by
  intro s i addr frame rest hstart _ hresp _ _ henc hlen hin
  have ⟨hphase, hbuf, _⟩ := hstart
  obtain ⟨hfive, -⟩ := responseLength_bounds hlen
  obtain ⟨front, last, rfl⟩ : ∃ front last, frame = front ++ [last] :=
    ⟨_, _, (List.dropLast_append_getLast (List.ne_nil_of_length_pos (by omega))).symm⟩
  have hfront : runSteps front.length s = .next (buffered (.rxByte last :: rest) front s) := by
    refine runSteps_buffered hphase (expectsByLength_of_decoderStarted hstart) (by simpa using hin) fun j hj => ?_
    have htake : front.take (j + 1) = (front ++ [last]).take (j + 1) := (List.take_append_of_le_length hj).symm
    rw [hbuf, List.nil_append, List.length_nil, Nat.zero_add, htake]
    exact responseLength_take_ne hlen (by simpa using hj)
  have hlast : awaitByte last (buffered rest front s) = interpret (front ++ [last]) { s with inputs := rest } := by
    rw [awaitByte_complete (s := buffered rest front s) rfl (by simpa [buffered, hbuf] using hlen), interpret_eq, interpret_eq,
      show (buffered rest front s).rxBuf = front by simp [buffered, hbuf]]
    exact finish_withDecoder _ (s.rxBuf ++ front) (buffered rest front s).rxExpect { s with inputs := rest }
  calc runSteps (front ++ [last]).length s
      = runSteps 1 (buffered (.rxByte last :: rest) front s) := by rw [List.length_append, runSteps_add _ hfront]; rfl
    _ = .next (awaitByte last (buffered rest front s)) := runSteps_succ 0 (Gate.step_rxByte_await rfl hphase)
    _ = .next (interpret (front ++ [last]) { s with inputs := rest }) := congrArg Host.Outcome.next hlast
    _ = .next (receiveFrame (front ++ [last]) { s with inputs := rest }) :=
        congrArg Host.Outcome.next (receiveFrame_await (s := { s with inputs := rest }) _ hphase).symm
    _ = exec i { s with inputs := rest } := (Responses.exec_response _ hresp henc).symm

/-- Under `LITERAL` the length does not depend on bit 7 of the function-code byte (42_relay_response.md R153). -/
theorem responseLength_literal (fc : Byte) (buf : List Byte) :
    responseLength .literal fc buf =
      if fc = 0x01 then (if 3 ≤ buf.length then some (3 + (byteAt buf 2).toNat + 2) else none) else some 8 :=
  if_neg (by simp)

/-- Settles O34: `LITERAL` expects 8 bytes, or 5 more than the code, so none of the five bytes completes anything. -/
theorem shortExceptionWaitsUnderLiteral : Obligations.ShortExceptionWaitsUnderLiteral := by
  intro s frame rest hstart hliteral hlen _ hfc hin
  have ⟨hphase, hbuf, _⟩ := hstart
  have hwhole : responseLength .literal s.reqFc frame =
      if s.reqFc = 0x01 then some (5 + (frame.getD 2 0).toNat) else some 8 := by
    have hheader : 3 ≤ frame.length := by omega
    simp only [responseLength_literal, hheader, if_true, byteAt, Nat.add_right_comm 3, Nat.reduceAdd]
  have hopen : ∀ j < frame.length, responseLength .literal s.reqFc (frame.take (j + 1)) ≠ some (j + 1) := by
    intro j hj hdone
    obtain ⟨hj5, -⟩ := responseLength_bounds hdone
    rw [List.take_of_length_le (by omega), hwhole] at hdone
    rcases hfc with hfc | hfc | ⟨hfc, hcode⟩
    · rw [hfc, if_neg (by decide)] at hdone
      have := Option.some.inj hdone
      omega
    · rw [hfc, if_neg (by decide)] at hdone
      have := Option.some.inj hdone
      omega
    · have hpos : (frame.getD 2 0).toNat ≠ 0 := fun h0 => hcode (BitVec.eq_of_toNat_eq h0)
      rw [if_pos hfc] at hdone
      have := Option.some.inj hdone
      omega
  have hbuffered := runSteps_buffered hphase (expectsByLength_of_decoderStarted hstart) hin (by simpa [hbuf, hliteral] using hopen)
  rw [buffered, hbuf, List.nil_append, hliteral, hwhole, hlen] at hbuffered
  exact hbuffered

/-! ### Bytes kept from before a transaction -/

/-- Outside a transaction every fed byte is set aside, in front of those set aside before (42_relay_response.md R150). -/
theorem feedPending_of_not_await {s : State} (bytes : List Byte) (h : s.phase ≠ .awaitRsp) :
    feedPending bytes s = { s with rxPending := bytes ++ s.rxPending } := by
  cases bytes with
  | nil => rfl
  | cons b rest => rw [feedPending, if_neg h]

/-- Under `KEEP` in `IDLE` arriving bytes join `RX_PENDING`, one step each (42_relay_response.md R165). -/
theorem runSteps_stray {bytes : List Byte} {s : State} {rest : List Event} (hidle : s.phase = .idle)
    (hkeep : s.cfg.idleRx = .keep) (hin : s.inputs = bytes.map Event.rxByte ++ rest) :
    runSteps bytes.length s = .next { s with inputs := rest, rxPending := s.rxPending ++ bytes } := by
  induction bytes generalizing s with
  | nil =>
    have hrest : s.inputs = rest := hin
    rw [List.append_nil, ← hrest]
    rfl
  | cons b more ih =>
    have hfirst := Gate.step_rxByte_stray hin (by simp [hidle])
    rw [strayByte_eq, if_pos ⟨hkeep, hidle⟩] at hfirst
    have hlater := ih (s := { s with inputs := more.map Event.rxByte ++ rest, rxPending := s.rxPending ++ [b] }) hidle hkeep rfl
    rw [List.append_assoc] at hlater
    exact (runSteps_succ _ hfirst).trans hlater

/-- `s` with other events to come. -/
def withInputs (events : List Event) (s : State) : State :=
  { s with inputs := events }

theorem finish_withInputs (r : Result) (events : List Event) (s : State) :
    finish r (withInputs events s) = withInputs events (finish r s) := by
  cases howner : s.lockOwner with
  | none =>
    rw [finish_of_free r howner, finish_of_free (s := withInputs events s) r howner]
    rfl
  | some k =>
    rw [finish_of_owner r howner, finish_of_owner (s := withInputs events s) r howner]
    rfl

/-- The decoder does not look at the events to come. -/
theorem awaitByte_withInputs (b : Byte) (events : List Event) (s : State) :
    awaitByte b (withInputs events s) = withInputs events (awaitByte b s) := by
  rcases awaitByte_cases b s with ⟨hopen, heq⟩ | ⟨hdone, heq⟩
  · rw [heq]
    exact if_neg (Bool.eq_false_iff.mp hopen)
  · rw [heq, ← finish_withInputs]
    exact if_pos hdone

/-- While a response is awaited, arriving bytes act as the same bytes fed from `RX_PENDING`, those left over included. -/
theorem runSteps_bytes {bytes : List Byte} {s : State} {rest : List Event} (hphase : s.phase = .awaitRsp)
    (hkeep : s.cfg.idleRx = .keep) (hnone : s.rxPending = []) (hin : s.inputs = bytes.map Event.rxByte ++ rest) :
    runSteps bytes.length s = .next (feedPending bytes (withInputs rest s)) := by
  induction bytes generalizing s with
  | nil =>
    rw [← show s.inputs = rest from hin]
    rfl
  | cons b more ih =>
    have hfirst : step s = .next (withInputs (more.map Event.rxByte ++ rest) (awaitByte b s)) :=
      (Gate.step_rxByte_await hin hphase).trans (congrArg Host.Outcome.next (awaitByte_withInputs b _ s))
    have hfed : feedPending (b :: more) (withInputs rest s) = feedPending more (withInputs rest (awaitByte b s)) := by
      rw [feedPending, if_pos (show (withInputs rest s).phase = _ from hphase), awaitByte_withInputs]
    obtain ⟨hcfg, -, -, -, -, -, -, hpending, -⟩ := awaitByte_frame b s
    have hkeep' : (awaitByte b s).cfg.idleRx = .keep := (congrArg Config.idleRx hcfg).trans hkeep
    have hnone' : (awaitByte b s).rxPending = [] := hpending.trans hnone
    rw [List.length_cons, runSteps_succ _ hfirst, hfed]
    by_cases hwaiting : (awaitByte b s).phase = .awaitRsp
    · exact ih (s := withInputs _ (awaitByte b s)) hwaiting hkeep' hnone' rfl
    · have hidle : (awaitByte b s).phase = .idle := by
        rcases awaitByte_cases b s with ⟨-, heq⟩ | ⟨-, heq⟩
        · exact absurd ((congrArg State.phase heq).trans hphase) hwaiting
        · exact congrArg State.phase heq
      rw [runSteps_stray (s := withInputs (more.map Event.rxByte ++ rest) (awaitByte b s)) hidle hkeep' rfl,
        feedPending_of_not_await (s := withInputs rest (awaitByte b s)) more hwaiting]
      simp [withInputs, hnone']

/-- Under `KEEP`, or with nothing kept, a request that is sent whole has the kept bytes fed to the decoder it starts. -/
theorem sendRequest_of_sent {s : State} (c : BusCommand) (r : Request) (hidle : s.phase = .idle)
    (hopen : s.portOpen = true ∨ s.answer.opening = .openOk) (hsent : s.answer.sending = .sent)
    (hkept : s.cfg.idleRx = .keep ∨ s.rxPending = []) :
    sendRequest c r s = feedPending s.rxPending
      (awaiting c r.fc r.frame (withRequest r.cmd r.fc r.start r.qty { s with rxPending := [] })) := by
  rw [Gate.sendRequest_of_open c r hidle hopen,
    Transmission.transmit_of_sent (s := writeRequest r { s with portOpen := true }) c r.frame hsent]
  rcases decoderStart_cases { writeRequest r { s with portOpen := true } with
    lockOwner := some s.cur, callers := callersSet s.callers s.cur (.inflight c), txLog := s.txLog ++ [r.frame] }
    with ⟨hdiscard, hstart⟩ | ⟨-, hstart⟩
  · have hnone : s.rxPending = [] := hkept.resolve_left fun hkeep => by cases hkeep.symm.trans hdiscard
    refine hstart.trans ?_
    rw [hnone, feedPending, awaiting, withRequest, ← hnone]
    rfl
  · exact hstart

/-- Settles O24: with nothing kept the request is sent and the decoder started empty; the bytes then arriving act as the kept
bytes fed to it. -/
theorem keptBytesActAsArrivals : Obligations.KeptBytesActAsArrivals := by
  intro c s kept rest hargs hen hidle hopen hsent hkeep hkept
  refine ⟨_, _, Gate.exec_busInstr_of_enabled hargs hen, ?arrivals, Gate.exec_busInstr_of_enabled hargs hen⟩
  rw [sendRequest_of_sent (s := { s with rxPending := [], inputs := kept.map Event.rxByte ++ rest }) c _ hidle hopen hsent
      (.inl hkeep),
    sendRequest_of_sent (s := { s with inputs := rest }) c _ hidle hopen hsent (.inl hkeep), hkept]
  exact runSteps_bytes rfl hkeep rfl rfl

end Sys2Proof.Proofs.Reception
end

section
/-! PROOFS. Everything a step can do: one inversion lemma for the steps that follow (43_relay_transaction.md R191, R194, R195,
R199). -/

namespace Sys2Proof.Proofs.Moves

open Machine Safety
open Reception (withInputs)

/-- The block turns to caller `k` with its next event taken off the schedule. -/
def serving (k : CallerId) (ans : EnvAnswer) (rest : List Event) (s : State) : State :=
  serve k ans (withInputs rest s)

/-! ### Allowed results -/

/-- An error that no column of the matrix restricts is allowed for every bus command (60_exceptions.md R223). -/
theorem resultAllowed_bus_err (c : BusCommand) {e : BusError} (h : ∀ a b, busErrorAllowed a b e = true) :
    resultAllowed (.bus c) (.err e) = true := by
  cases c <;> exact h _ _

/-- The argument check of a bus command raises only the subkinds of its row (60_exceptions.md R223). -/
theorem resultAllowed_argError {c : BusCommand} {sub : ArgSub} (h : argError c = some sub) :
    resultAllowed (.bus c) (.err (.argument sub)) = true := by
  revert h
  fun_cases argError c <;> rintro ⟨⟩ <;> rfl

/-- A checksum command only answers, with a result of its row (40_checksum.md R103, R104). -/
theorem exec_crcCompute_allowed (bytes : List Byte) (length : Int) (s : State) :
    ∃ r, resultAllowed (.crcCompute bytes length) r = true ∧
      exec (.crcCompute bytes length) s = .next (answered s.cur r s) := by
  refine ⟨_, ?_, Checksum.exec_crcCompute bytes length s⟩
  split <;> rfl

/-- A presented bus command is answered with an error of its row, or it is legal and enabled and goes on to be sent
(41_relay_commands.md R120 steps 1 and 2). -/
theorem exec_busInstr_cases (c : BusCommand) (s : State) :
    (∃ r, resultAllowed (.bus c) r = true ∧ exec (busInstr c) s = .next (answered s.cur r s)) ∨
      argError c = none ∧ s.cfg.enabled = true ∧
        exec (busInstr c) s = .next (sendRequest c (requestOf s.cfg.deviceAddr c) s) := by
  rw [exec_busInstr]
  rcases presentBus_cases c (requestOf s.cfg.deviceAddr c) s with ⟨sub, hsub, heq⟩ | ⟨-, -, heq⟩ | ⟨hargs, hen, heq⟩
  · exact .inl ⟨_, resultAllowed_argError hsub, congrArg Host.Outcome.next heq⟩
  · exact .inl ⟨_, resultAllowed_bus_err c fun _ _ => rfl, congrArg Host.Outcome.next heq⟩
  · exact .inr ⟨hargs, hen, congrArg Host.Outcome.next heq⟩

/-! ### The inversion of a step -/

/-- A bus command that comes to step 3 of 41_relay_commands.md R120: one just checked, or what a held one resumes as. -/
inductive ComesToSend (s : State) (k : CallerId) (ans : EnvAnswer) (rest : List Event) : BusCommand → Prop
  | checked (c : BusCommand) (hin : s.inputs = .present k (.bus c) ans :: rest) (hfree : s.callerOf k = .free)
      (hargs : argError c = none) (hen : s.cfg.enabled = true) : ComesToSend s k ans rest c
  | resumed (c : BusCommand) (hin : s.inputs = .takeUp k ans :: rest) (hheld : s.callerOf k = .held (.bus c)) :
      ComesToSend s k ans rest (Gate.resumed c)

/-- What a step can do. -/
inductive Move (s : State) : State → Prop
  /-- No event: the block waits. -/
  | waits (hin : s.inputs = []) : Move s s
  /-- An event that does nothing, and presents nothing. -/
  | ignores (e : Event) (rest : List Event) (hin : s.inputs = e :: rest) (he : ∀ k c ans, e ≠ .present k c ans) :
      Move s (withInputs rest s)
  /-- A presented command is answered before it comes to the line. -/
  | answers (k : CallerId) (c : Command) (r : Result) (ans : EnvAnswer) (rest : List Event)
      (hin : s.inputs = .present k c ans :: rest) (hfree : s.callerOf k = .free) (hr : resultAllowed c r = true) :
      Move s (answered k r (serving k ans rest s))
  /-- A bus command comes to step 3 of R120. -/
  | sends (k : CallerId) (c : BusCommand) (ans : EnvAnswer) (rest : List Event) (hsend : ComesToSend s k ans rest c) :
      Move s (sendRequest c (requestOf s.cfg.deviceAddr c) (serving k ans rest s))
  /-- `DISPOSE`, presented or taken up. -/
  | disposes (k : CallerId) (ans : EnvAnswer) (rest : List Event) (t : State)
      (hin : s.inputs = .present k .dispose ans :: rest ∧ s.callerOf k = .free ∨
        s.inputs = .takeUp k ans :: rest ∧ s.callerOf k = .held .dispose)
      (ht : exec .dispose (serving k ans rest s) = .next t) : Move s t
  /-- A byte while a response is awaited. -/
  | receives (b : Byte) (rest : List Event) (hin : s.inputs = .rxByte b :: rest) (hphase : s.phase = .awaitRsp) :
      Move s (awaitByte b (withInputs rest s))
  /-- A byte outside a transaction. -/
  | strays (b : Byte) (rest : List Event) (hin : s.inputs = .rxByte b :: rest) (hphase : s.phase ≠ .awaitRsp) :
      Move s (strayByte b (withInputs rest s))
  /-- A time-out or a failure of the line ends the transaction. -/
  | ends (e : Event) (r : BusError) (rest : List Event) (hin : s.inputs = e :: rest) (he : ∀ k c ans, e ≠ .present k c ans)
      (hphase : s.phase = .awaitRsp) (hr : ∀ a b, busErrorAllowed a b r = true) :
      Move s (finish (.err r) (withInputs rest s))

theorem move_of_present {s t : State} {k : CallerId} {c : Command} {ans : EnvAnswer} {rest : List Event}
    (hin : s.inputs = .present k c ans :: rest) (hfree : s.callerOf k = .free)
    (h : exec (commandInstr c) (serving k ans rest s) = .next t) : Move s t := by
  cases c with
  | crcCompute bytes length =>
    obtain ⟨r, hr, hexec⟩ := exec_crcCompute_allowed bytes length (serving k ans rest s)
    cases hexec.symm.trans h
    exact .answers k _ r ans rest hin hfree hr
  | crcValidate frame =>
    cases (Checksum.exec_crcValidate frame (serving k ans rest s)).symm.trans h
    exact .answers k _ _ ans rest hin hfree rfl
  | bus c =>
    rcases exec_busInstr_cases c (serving k ans rest s) with ⟨r, hr, hexec⟩ | ⟨hargs, hen, hexec⟩
    · cases hexec.symm.trans h
      exact .answers k _ r ans rest hin hfree hr
    · cases hexec.symm.trans h
      exact .sends k c ans rest (.checked c hin hfree hargs hen)
  | dispose => exact .disposes k ans rest t (.inl ⟨hin, hfree⟩) h

theorem move_of_takeUp {s t : State} {k : CallerId} {c : HeldCommand} {ans : EnvAnswer} {rest : List Event}
    (hin : s.inputs = .takeUp k ans :: rest) (hheld : s.callerOf k = .held c)
    (h : exec (resumeInstr c) (serving k ans rest s) = .next t) : Move s t := by
  cases c with
  | bus c =>
    cases (Gate.exec_resumeInstr_of_held (s := serving k ans rest s) hheld).symm.trans h
    exact .sends k _ ans rest (.resumed c hin hheld)
  | dispose => exact .disposes k ans rest t (.inr ⟨hin, hheld⟩) h

/-- The one inversion lemma of the step. -/
theorem move_of_step {s t : State} (h : step s = .next t) : Move s t := by
  cases hin : s.inputs with
  | nil =>
    cases (Gate.step_wait hin).symm.trans h
    exact .waits hin
  | cons e rest =>
    cases e with
    | present k c ans =>
      by_cases hfree : s.callerOf k = .free
      · exact move_of_present hin hfree ((Checksum.step_present_free hin hfree).symm.trans h)
      · cases (Gate.step_present_busy hin hfree).symm.trans h
    | takeUp k ans =>
      by_cases hheld : ∃ c, s.callerOf k = .held c
      · obtain ⟨c, hheld⟩ := hheld
        exact move_of_takeUp hin hheld ((Gate.step_takeUp_held hin hheld).symm.trans h)
      · cases (Gate.step_takeUp_not_held hin (not_exists.mp hheld)).symm.trans h
        exact .ignores _ rest hin (by simp)
    | rxByte b =>
      by_cases hphase : s.phase = .awaitRsp
      · cases (Gate.step_rxByte_await hin hphase).symm.trans h
        exact .receives b rest hin hphase
      · cases (Gate.step_rxByte_stray hin hphase).symm.trans h
        exact .strays b rest hin hphase
    | timeout =>
      cases (Gate.step_timeout hin).symm.trans h
      by_cases hphase : s.phase = .awaitRsp
      · rw [timeoutEvent, if_pos hphase]
        exact .ends _ (.timeoutRead s.rxBuf.length) rest hin (by simp) hphase fun _ _ => rfl
      · rw [timeoutEvent, if_neg hphase]
        exact .ignores _ rest hin (by simp)
    | ioFault =>
      cases (Transactions.step_ioFault hin).symm.trans h
      by_cases hphase : s.phase = .awaitRsp
      · rw [ioFaultEvent, if_pos hphase]
        exact .ends _ (.connection .ioFault) rest hin (by simp) hphase fun _ _ => rfl
      · rw [ioFaultEvent, if_neg hphase]
        exact .ignores _ rest hin (by simp)

end Sys2Proof.Proofs.Moves
end

section
/-! PROOFS. The invariant: it holds after reset, and every step keeps it (10_state.md R23, R31, R32, 43_relay_transaction.md
R196, R197). -/

namespace Sys2Proof.Proofs.Invariant

open Machine Safety Moves
open Transmission (callerOf_answered callerOf_ended callerOf_awaiting)
open Reception (withInputs buffered)

/-! ### Consequences -/

theorem lockOwner_of_await {s : State} (h : Inv s) (hphase : s.phase = .awaitRsp) : ∃ k, s.lockOwner = some k :=
  Option.isSome_iff_exists.mp (h.lockedIffAwaiting.mpr hphase)

theorem lockOwner_of_not_await {s : State} (h : Inv s) (hphase : s.phase ≠ .awaitRsp) : s.lockOwner = none := by
  rw [← Option.not_isSome_iff_eq_none, h.lockedIffAwaiting]
  exact hphase

theorem await_of_lockOwner {s : State} {k : CallerId} (h : Inv s) (howner : s.lockOwner = some k) : s.phase = .awaitRsp :=
  h.lockedIffAwaiting.mp (by rw [howner, Option.isSome_some])

/-- Outside a transaction nobody is in flight. -/
theorem not_inflight_of_not_await {s : State} (h : Inv s) (hphase : s.phase ≠ .awaitRsp) (k : CallerId) (c : BusCommand) :
    s.callerOf k ≠ .inflight c := fun hk =>
  hphase (await_of_lockOwner h (h.inflightOwner k c hk))

/-- Settles O43: `RX_EXPECT` is what the bytes determine, which is 5 to 260 or unknown before the third byte. -/
theorem receiveBufferIsBounded : Obligations.ReceiveBufferIsBounded := by
  intro s h
  by_cases hphase : s.phase = .awaitRsp
  · have hexact := h.expectExact hphase
    have hknown : ∀ n, s.rxExpect = some n → 5 ≤ n ∧ n ≤ 260 ∧ s.rxBuf.length < n := fun n hn =>
      ⟨(responseLength_bounds (hexact.symm.trans hn)).1, (responseLength_bounds (hexact.symm.trans hn)).2, h.notComplete n hn⟩
    refine ⟨?_, hknown⟩
    cases hexpect : s.rxExpect with
    | none =>
      have hshort := (responseLength_none (hexact.symm.trans hexpect)).2
      omega
    | some n =>
      obtain ⟨-, hmax, hlen⟩ := hknown n hexpect
      omega
  · obtain ⟨hbuf, hexpect⟩ := h.decoderEmpty hphase
    simp [hbuf, hexpect]

/-! ### What keeps the invariant -/

/-- The invariant of a state in which no response is awaited. -/
theorem inv_of_not_await {s : State} (hphase : s.phase ≠ .awaitRsp) (howner : s.lockOwner = none)
    (hcallers : callersWf s.callers = true) (hinflight : ∀ k c, s.callerOf k ≠ .inflight c)
    (hheld : ∀ k c, s.callerOf k = .held (.bus c) → argError c = none ∧ s.cfg.enabled = true)
    (hdecoder : s.rxBuf = [] ∧ s.rxExpect = none) (hport : s.phase = .disposed → s.portOpen = false)
    (hpending : s.rxPending ≠ [] → s.cfg.idleRx = .keep ∧ s.phase ≠ .disposed) : Inv s where
  callersCanonical := hcallers
  lockedIffAwaiting := by simp [howner, hphase]
  ownerInflight := by simp [howner]
  inflightOwner k c hk := absurd hk (hinflight k c)
  inflightEnabled k c hk := absurd hk (hinflight k c)
  heldChecked := hheld
  decoderEmpty _ := hdecoder
  expectExact h := absurd h hphase
  notComplete := by simp [hdecoder.2]
  portOpenAwaiting h := absurd h hphase
  portClosedDisposed := hport
  pendingKept := hpending

/-- Settles O41: after reset no caller waits and the decoder is empty. -/
theorem invariantAtReset : Obligations.InvariantAtReset := fun cfg =>
  inv_of_not_await (s := State.resetWith cfg) nofun rfl rfl (by simp) (by simp) ⟨rfl, rfl⟩ nofun (absurd rfl)

/-- Only the schedule and the record of who is served change. -/
theorem inv_serving {s : State} (h : Inv s) (k : CallerId) (ans : EnvAnswer) (rest : List Event) :
    Inv (serving k ans rest s) :=
  ⟨h.callersCanonical, h.lockedIffAwaiting, h.ownerInflight, h.inflightOwner, h.inflightEnabled, h.heldChecked,
    h.decoderEmpty, h.expectExact, h.notComplete, h.portOpenAwaiting, h.portClosedDisposed, h.pendingKept⟩

theorem inv_withInputs {s : State} (h : Inv s) (events : List Event) : Inv (withInputs events s) :=
  ⟨h.callersCanonical, h.lockedIffAwaiting, h.ownerInflight, h.inflightOwner, h.inflightEnabled, h.heldChecked,
    h.decoderEmpty, h.expectExact, h.notComplete, h.portOpenAwaiting, h.portClosedDisposed, h.pendingKept⟩

/-- A caller not in flight may be freed, or held with a command that passed its checks; results may be delivered. -/
theorem inv_set_caller {s : State} {k : CallerId} {c : CallerState} (results : List (CallerId × Result)) (h : Inv s)
    (hk : ∀ b, s.callerOf k ≠ .inflight b) (hc : ∀ b, c ≠ .inflight b)
    (hchecked : ∀ b, c = .held (.bus b) → argError b = none ∧ s.cfg.enabled = true) :
    Inv { s with callers := callersSet s.callers k c, results := results } := by
  have hread : ∀ j, State.callerOf { s with callers := callersSet s.callers k c, results := results } j =
      if j = k then c else s.callerOf j := fun j => callersGet_set s.callers j k c
  have hinflight : ∀ j b, State.callerOf { s with callers := callersSet s.callers k c, results := results } j = .inflight b →
      s.callerOf j = .inflight b := by
    intro j b hj
    rw [hread] at hj
    split at hj
    · exact absurd hj (hc b)
    · exact hj
  refine ⟨callersWf_set k c h.callersCanonical, h.lockedIffAwaiting, fun j hj => ?owner,
    fun j b hj => h.inflightOwner j b (hinflight j b hj), fun j b hj => h.inflightEnabled j b (hinflight j b hj),
    fun j b hj => ?held, h.decoderEmpty, h.expectExact, h.notComplete, h.portOpenAwaiting, h.portClosedDisposed, h.pendingKept⟩
  case owner =>
    obtain ⟨b, hb, hreq⟩ := h.ownerInflight j hj
    have hne : j ≠ k := by
      rintro rfl
      exact hk b hb
    exact ⟨b, (hread j).trans ((if_neg hne).trans hb), hreq⟩
  case held =>
    rw [hread] at hj
    split at hj
    · exact hchecked b hj
    · exact h.heldChecked j b hj

theorem inv_answered {s : State} {k : CallerId} (r : Result) (h : Inv s) (hk : ∀ b, s.callerOf k ≠ .inflight b) :
    Inv (answered k r s) :=
  inv_set_caller _ h hk nofun nofun

theorem inv_held {s : State} {k : CallerId} {c : HeldCommand} (h : Inv s) (hk : ∀ b, s.callerOf k ≠ .inflight b)
    (hchecked : ∀ b, c = .bus b → argError b = none ∧ s.cfg.enabled = true) : Inv (s.setCaller k (.held c)) :=
  inv_set_caller s.results h hk nofun fun b hb => hchecked b (by simpa using hb)

/-- The end of a transaction: its owner was the only one in flight. -/
theorem inv_ended {s : State} {k : CallerId} (r : Result) (h : Inv s) (howner : s.lockOwner = some k) : Inv (ended k r s) := by
  refine inv_of_not_await nofun rfl (callersWf_set k .free h.callersCanonical) (fun j c hj => ?inflight) (fun j c hj => ?held)
    ⟨rfl, rfl⟩ nofun fun hp => ⟨(h.pendingKept hp).1, nofun⟩
  case inflight =>
    rw [callerOf_ended] at hj
    split at hj
    · cases hj
    · rename_i hne
      exact hne (Option.some.inj ((h.inflightOwner j c hj).symm.trans howner))
  case held =>
    rw [callerOf_ended] at hj
    split at hj
    · cases hj
    · exact h.heldChecked j c hj

theorem inv_finish {s : State} (r : Result) (h : Inv s) (hphase : s.phase = .awaitRsp) : Inv (finish r s) := by
  obtain ⟨k, howner⟩ := lockOwner_of_await h hphase
  rw [finish_of_owner r howner]
  exact inv_ended r h howner

/-- Disposal of an idle block (43_relay_transaction.md R197). -/
theorem inv_disposed {s : State} {k : CallerId} (r : Result) (h : Inv s) (hidle : s.phase = .idle) :
    Inv (answered k r { s with portOpen := false, rxPending := [], phase := .disposed }) := by
  have hphase : s.phase ≠ .awaitRsp := by simp [hidle]
  have howner := lockOwner_of_not_await h hphase
  have hnone := not_inflight_of_not_await h hphase
  have hdecoder := h.decoderEmpty hphase
  have hdisposed : Inv { s with portOpen := false, rxPending := [], phase := .disposed } :=
    inv_of_not_await nofun howner h.callersCanonical hnone h.heldChecked hdecoder (fun _ => rfl) (absurd rfl)
  exact inv_answered r hdisposed (hnone k)

/-! ### Bytes -/

/-- A byte that completes nothing keeps the buffer shorter than a known length: a length settled by this byte is at least 5,
and one settled before was not reached (42_relay_response.md R151). -/
theorem length_lt_of_buffered {s : State} {b : Byte} {n : Nat} (h : Inv s) (hphase : s.phase = .awaitRsp)
    (hopen : responseLength s.cfg.excLength s.reqFc (s.rxBuf ++ [b]) ≠ some (s.rxBuf.length + 1))
    (hn : responseLength s.cfg.excLength s.reqFc (s.rxBuf ++ [b]) = some n) : s.rxBuf.length + 1 < n := by
  have hne : n ≠ s.rxBuf.length + 1 := by
    rintro rfl
    exact hopen hn
  obtain ⟨hfive, -⟩ := responseLength_bounds hn
  by_cases hheader : 3 ≤ s.rxBuf.length
  · rw [Reception.responseLength_append hheader, ← h.expectExact hphase] at hn
    have hbefore := h.notComplete n hn
    omega
  · omega

theorem inv_buffered {s : State} {b : Byte} (h : Inv s) (hphase : s.phase = .awaitRsp)
    (hopen : responseLength s.cfg.excLength s.reqFc (s.rxBuf ++ [b]) ≠ some (s.rxBuf.length + 1)) :
    Inv (buffered s.inputs [b] s) :=
  ⟨h.callersCanonical, h.lockedIffAwaiting, h.ownerInflight, h.inflightOwner, h.inflightEnabled, h.heldChecked,
    fun hp => absurd hphase hp, fun _ => rfl,
    fun _ hn => (List.length_append (as := s.rxBuf) (bs := [b])).trans_lt (length_lt_of_buffered h hphase hopen hn),
    h.portOpenAwaiting, h.portClosedDisposed, h.pendingKept⟩

theorem inv_awaitByte {s : State} (b : Byte) (h : Inv s) (hphase : s.phase = .awaitRsp) : Inv (awaitByte b s) := by
  by_cases hdone : responseLength s.cfg.excLength s.reqFc (s.rxBuf ++ [b]) = some (s.rxBuf.length + 1)
  · rw [Reception.awaitByte_complete (h.expectExact hphase) hdone, interpret_eq]
    exact inv_finish _ h hphase
  · rw [Reception.awaitByte_buffered (h.expectExact hphase) hdone]
    exact inv_buffered h hphase hdone

theorem awaitByte_phase_ne_disposed {s : State} (b : Byte) (hphase : s.phase = .awaitRsp) :
    (awaitByte b s).phase ≠ .disposed := by
  rcases awaitByte_cases b s with ⟨-, heq⟩ | ⟨-, heq⟩ <;> rw [heq] <;> simp [hphase]

/-- Bytes may be kept under `KEEP` before disposal (10_state.md R30). -/
theorem inv_pending {s : State} (pending : List Byte) (h : Inv s) (hkeep : s.cfg.idleRx = .keep) (hphase : s.phase ≠ .disposed) :
    Inv { s with rxPending := pending } :=
  ⟨h.callersCanonical, h.lockedIffAwaiting, h.ownerInflight, h.inflightOwner, h.inflightEnabled, h.heldChecked,
    h.decoderEmpty, h.expectExact, h.notComplete, h.portOpenAwaiting, h.portClosedDisposed, fun _ => ⟨hkeep, hphase⟩⟩

theorem inv_strayByte {s : State} (b : Byte) (h : Inv s) : Inv (strayByte b s) := by
  rw [strayByte_eq]
  split
  · rename_i hkept
    obtain ⟨hkeep, hidle⟩ := hkept
    exact inv_pending _ h hkeep (by simp [hidle])
  · exact h

theorem inv_feedPending {s : State} (bytes : List Byte) (h : Inv s) (hkeep : s.cfg.idleRx = .keep)
    (hphase : s.phase ≠ .disposed) : Inv (feedPending bytes s) := by
  have hfed := feedPending_induction (P := fun u => Inv u ∧ u.cfg.idleRx = .keep ∧ u.phase ≠ .disposed) bytes s
    ⟨h, hkeep, hphase⟩ (fun b u hwait hu => ?byte) fun rest u _ hu => ?aside
  case byte =>
    obtain ⟨hinv, hpolicy, -⟩ := hu
    exact ⟨inv_awaitByte b hinv hwait, (congrArg Config.idleRx (awaitByte_frame b u).1).trans hpolicy,
      awaitByte_phase_ne_disposed b hwait⟩
  case aside =>
    obtain ⟨hinv, hpolicy, hlive⟩ := hu
    exact ⟨inv_pending _ hinv hpolicy hlive, hpolicy, hlive⟩
  · exact hfed.1

/-! ### Requests -/

/-- `s` once the request of `c` has been sent whole for the current caller, with no kept byte left. -/
def requested (c : BusCommand) (s : State) : State :=
  let r := requestOf s.cfg.deviceAddr c
  awaiting c r.fc r.frame (withRequest r.cmd r.fc r.start r.qty { s with rxPending := [] })

/-- The request registers describe the command whose request is sent (41_relay_commands.md R128). -/
theorem requestFor_requested {c : BusCommand} (s : State) (h : argError c = none) : RequestFor (requested c s) c := by
  refine ⟨h, rfl, ?_⟩
  have hargs := (argError_eq_none c).mp h
  cases c with
  | readCoils start count =>
    obtain ⟨hcount1, hcount, hstart0, hstart⟩ := hargs
    exact ⟨rfl, rfl, BusCommands.toNat_narrow16 hstart0 hstart, BusCommands.toNat_narrow16 (by omega) (by omega)⟩
  | readAll => exact ⟨rfl, rfl, rfl, rfl⟩
  | setChannel channel on =>
    obtain ⟨hlow, hhigh⟩ := hargs
    exact ⟨rfl, rfl, BusCommands.toNat_narrow16 (by omega) (by omega), rfl⟩
  | setAll states => exact ⟨rfl, rfl, rfl, rfl⟩

theorem inv_requested {s : State} {c : BusCommand} (h : Inv s) (hphase : s.phase ≠ .awaitRsp) (hargs : argError c = none)
    (hen : s.cfg.enabled = true) : Inv (requested c s) := by
  have hread : ∀ j, (requested c s).callerOf j = if j = s.cur then .inflight c else s.callerOf j := callerOf_awaiting c _ _ _
  have howner : ∀ j b, (requested c s).callerOf j = .inflight b → j = s.cur := by
    intro j b hj
    rw [hread] at hj
    by_contra hne
    rw [if_neg hne] at hj
    exact not_inflight_of_not_await h hphase j b hj
  have hexpect : (requested c s).rxExpect = responseLength s.cfg.excLength (requestOf s.cfg.deviceAddr c).fc [] :=
    (responseLength_nil _ _).symm
  refine ⟨callersWf_set s.cur (.inflight c) h.callersCanonical, iff_of_true rfl rfl, fun j hj => ?owner,
    fun j b hj => congrArg some (howner j b hj).symm, fun _ _ _ => hen, fun j b hj => ?held, fun hp => absurd rfl hp,
    fun _ => hexpect, fun n hn => ?short, fun _ => rfl, nofun, absurd rfl⟩
  case owner =>
    cases hj
    exact ⟨c, (hread s.cur).trans (if_pos rfl), requestFor_requested s hargs⟩
  case held =>
    rw [hread] at hj
    split at hj
    · cases hj
    · exact h.heldChecked j b hj
  case short =>
    have hfive := (responseLength_bounds (hexpect.symm.trans hn)).1
    exact Nat.lt_of_lt_of_le (by decide : (0 : Nat) < 5) hfive

/-- A request sent whole: the kept bytes, if any, are fed to the decoder it starts. -/
theorem sendRequest_sent {s : State} (c : BusCommand) (h : Inv s) (hidle : s.phase = .idle)
    (hopen : s.portOpen = true ∨ s.answer.opening = .openOk) (hsent : s.answer.sending = .sent) :
    sendRequest c (requestOf s.cfg.deviceAddr c) s = feedPending s.rxPending (requested c s) := by
  refine Reception.sendRequest_of_sent c _ hidle hopen hsent ?_
  by_cases hnone : s.rxPending = []
  · exact .inr hnone
  · exact .inl (h.pendingKept hnone).1

/-- `s` with the request of `c` written to the registers and its first `n` bytes, if any, sent over the open port. -/
def cutShort (c : BusCommand) (n : Nat) (s : State) : State :=
  let r := requestOf s.cfg.deviceAddr c
  { withRequest r.cmd r.fc r.start r.qty s with
    portOpen := true, txLog := if 0 < n then s.txLog ++ [r.frame.take n] else s.txLog }

/-- A request cut short: nothing of the transaction is left but the registers, the open port and the bytes sent. -/
theorem sendRequest_cut {s : State} (c : BusCommand) {j : Nat} (h : Inv s) (hidle : s.phase = .idle)
    (hopen : s.portOpen = true ∨ s.answer.opening = .openOk) (hcut : s.answer.sending = .writeTimeout j) :
    ∃ n, sendRequest c (requestOf s.cfg.deviceAddr c) s = answered s.cur (.err (.timeoutWrite n)) (cutShort c n s) := by
  have hphase : s.phase ≠ .awaitRsp := by simp [hidle]
  obtain ⟨hbuf, hexpect⟩ := h.decoderEmpty hphase
  have howner := lockOwner_of_not_await h hphase
  refine ⟨min j (requestOf s.cfg.deviceAddr c).frame.length, ?_⟩
  rw [Gate.sendRequest_of_open c _ hidle hopen,
    Transmission.transmit_of_writeTimeout (s := writeRequest _ { s with portOpen := true }) c _ hcut]
  simp only [ended, answered, cutShort, withRequest, writeRequest, hbuf, hexpect, howner, hidle,
    callersSet_set s.cur (.inflight c) .free h.callersCanonical]

theorem inv_cutShort {s : State} (c : BusCommand) (n : Nat) (h : Inv s) (hidle : s.phase = .idle) : Inv (cutShort c n s) := by
  have hphase : s.phase ≠ .awaitRsp := by simp [hidle]
  have hlive : s.phase ≠ .disposed := by simp [hidle]
  have howner := lockOwner_of_not_await h hphase
  have hnone := not_inflight_of_not_await h hphase
  have hdecoder := h.decoderEmpty hphase
  exact inv_of_not_await hphase howner h.callersCanonical hnone h.heldChecked hdecoder (fun hp => absurd hp hlive) h.pendingKept

/-- From step 3 of 41_relay_commands.md R120 on, a checked command of a caller not in flight keeps the invariant. -/
theorem inv_sendRequest {s : State} {c : BusCommand} (h : Inv s) (hcur : ∀ b, s.callerOf s.cur ≠ .inflight b)
    (hargs : argError c = none) (hen : s.cfg.enabled = true) : Inv (sendRequest c (requestOf s.cfg.deviceAddr c) s) := by
  rcases sendRequest_cases c (requestOf s.cfg.deviceAddr c) s with
    ⟨-, hgone⟩ | ⟨-, hheld⟩ | ⟨-, -, -, hfailed⟩ | ⟨hidle, hopen, -⟩
  · rw [hgone]
    exact inv_answered _ h hcur
  · rw [hheld]
    refine inv_held h hcur ?_
    rintro b ⟨⟩
    exact ⟨hargs, hen⟩
  · rw [hfailed]
    exact inv_answered _ h hcur
  · have hphase : s.phase ≠ .awaitRsp := by simp [hidle]
    cases hsend : s.answer.sending with
    | sent =>
      have hrequested := inv_requested h hphase hargs hen
      rw [sendRequest_sent c h hidle hopen hsend]
      by_cases hnone : s.rxPending = []
      · rwa [hnone, feedPending]
      · exact inv_feedPending _ hrequested (h.pendingKept hnone).1 nofun
    | writeTimeout j =>
      obtain ⟨n, hcut⟩ := sendRequest_cut c h hidle hopen hsend
      rw [hcut]
      exact inv_answered _ (inv_cutShort c n h hidle) (not_inflight_of_not_await h hphase s.cur)

/-! ### Every move -/

/-- Under the invariant a command that comes to be sent is checked, its caller is not in flight, and it is the command that
the caller presents or is held with. -/
theorem checked_of_comesToSend {s : State} {k : CallerId} {c : BusCommand} {ans : EnvAnswer} {rest : List Event} (h : Inv s)
    (hsend : ComesToSend s k ans rest c) :
    argError c = none ∧ s.cfg.enabled = true ∧ (∀ b, s.callerOf k ≠ .inflight b) ∧
      (s.inputs = .present k (.bus c) ans :: rest ∨ s.inputs = .takeUp k ans :: rest ∧ s.callerOf k = .held (.bus c)) := by
  cases hsend with
  | checked _ hin hfree hargs hen => exact ⟨hargs, hen, by simp [hfree], .inl hin⟩
  | resumed c hin hheld =>
    obtain ⟨hargs, hen⟩ := h.heldChecked k c hheld
    rw [Gate.resumed_of_legalArgs ((argError_eq_none c).mp hargs)]
    exact ⟨hargs, hen, by simp [hheld], .inr ⟨hin, hheld⟩⟩

theorem inv_dispose {s t : State} (h : Inv s) (hcur : ∀ b, s.callerOf s.cur ≠ .inflight b) (ht : exec .dispose s = .next t) :
    Inv t := by
  cases hphase : s.phase with
  | idle =>
    cases (Gate.exec_dispose_of_idle hphase).symm.trans ht
    exact inv_disposed _ h hphase
  | awaitRsp =>
    cases (Gate.exec_dispose_of_locked hphase).symm.trans ht
    exact inv_held h hcur nofun
  | disposed =>
    cases (Gate.exec_dispose_of_disposed hphase).symm.trans ht
    exact inv_answered _ h hcur

/-- Settles O42: every move of the block keeps the invariant. -/
theorem stepKeepsInvariant : Obligations.StepKeepsInvariant := by
  intro s t h hstep
  cases move_of_step hstep with
  | waits => exact h
  | ignores _ rest => exact inv_withInputs h rest
  | answers k c r ans rest _ hfree => exact inv_answered r (inv_serving h k ans rest) fun _ hb => nomatch hfree.symm.trans hb
  | sends k c ans rest hsend =>
    obtain ⟨hargs, hen, hcur, -⟩ := checked_of_comesToSend h hsend
    exact inv_sendRequest (s := serving k ans rest s) (inv_serving h k ans rest) hcur hargs hen
  | disposes k ans rest _ hin ht =>
    refine inv_dispose (inv_serving h k ans rest) (fun b hb => ?_) ht
    have hb' : s.callerOf k = .inflight b := hb
    rcases hin with ⟨-, hk⟩ | ⟨-, hk⟩ <;> cases hb'.symm.trans hk
  | receives b rest _ hphase => exact inv_awaitByte b (inv_withInputs h rest) hphase
  | strays b rest => exact inv_strayByte b (inv_withInputs h rest)
  | ends _ r rest _ _ hphase => exact inv_finish _ (inv_withInputs h rest) hphase

end Sys2Proof.Proofs.Invariant
end

section
/-! PROOFS. The whole machine, step by step: what stays for ever, what the line sees, and that the request registers outside a
transaction cannot be observed (10_state.md R34, R39, 30_encoding.md R71, 43_relay_transaction.md R190, R197, R198). -/

namespace Sys2Proof.Proofs.WholeMachine

open Machine Safety Moves Invariant
open Reception (withInputs)

/-! ### What a request sent leaves alone, and what it puts on the line -/

theorem decoderStart_frame (s : State) :
    (decoderStart s).cfg = s.cfg ∧ (decoderStart s).txLog = s.txLog ∧ (decoderStart s).answer = s.answer := by
  rcases decoderStart_cases s with ⟨-, hstart⟩ | ⟨-, hstart⟩
  · simp [hstart]
  · rw [hstart]
    obtain ⟨hcfg, -, -, -, -, -, -, hlog, -, -, hans⟩ := feedPending_frame s.rxPending
      { s with rxBuf := [], rxExpect := if s.reqFc = fcReadCoils then none else some 8, phase := .awaitRsp, rxPending := [] }
    exact ⟨hcfg, hlog, hans⟩

/-- What a step of `s` may add to the line: nothing, a whole frame, or the first bytes of one when the write times out
(43_relay_transaction.md R193). -/
def LineTakes (frame : List Byte) (s t : State) : Prop :=
  t.txLog = s.txLog ∨ t.txLog = s.txLog ++ [frame] ∨
    ∃ n j, 0 < n ∧ n ≤ frame.length ∧ t.txLog = s.txLog ++ [frame.take n] ∧ t.answer.sending = .writeTimeout j

theorem transmit_frame (c : BusCommand) (frame : List Byte) (s : State) :
    (transmit c frame s).cfg = s.cfg ∧ LineTakes frame s (transmit c frame s) := by
  rcases transmit_cases c frame s with ⟨-, hsent⟩ | ⟨j, hcut, hended⟩
  · rw [hsent]
    obtain ⟨hcfg, hlog, -⟩ := decoderStart_frame { s with
      lockOwner := some s.cur, callers := callersSet s.callers s.cur (.inflight c), txLog := s.txLog ++ [frame] }
    exact ⟨hcfg, .inr (.inl hlog)⟩
  · rw [hended]
    refine ⟨rfl, ?_⟩
    by_cases hpos : 0 < min j frame.length
    · exact .inr (.inr ⟨_, j, hpos, Nat.min_le_right .., if_pos hpos, hcut⟩)
    · exact .inl (if_neg hpos)

theorem sendRequest_frame (c : BusCommand) (r : Request) (s : State) :
    (sendRequest c r s).cfg = s.cfg ∧ LineTakes r.frame s (sendRequest c r s) := by
  rcases sendRequest_cases c r s with ⟨-, heq⟩ | ⟨-, heq⟩ | ⟨-, -, -, heq⟩ | ⟨-, -, heq⟩
  · rw [heq]; exact ⟨rfl, .inl rfl⟩
  · rw [heq]; exact ⟨rfl, .inl rfl⟩
  · rw [heq]; exact ⟨rfl, .inl rfl⟩
  · rw [heq]
    exact transmit_frame c r.frame (writeRequest r { s with portOpen := true })

/-- `DISPOSE` sends nothing, and opens nothing. -/
theorem dispose_frame {s t : State} (h : exec .dispose s = .next t) :
    t.cfg = s.cfg ∧ t.txLog = s.txLog ∧ (t.portOpen = true → s.portOpen = true) ∧
      (s.phase ≠ .awaitRsp → t.phase ≠ .awaitRsp) := by
  cases hphase : s.phase with
  | idle =>
    cases (Gate.exec_dispose_of_idle hphase).symm.trans h
    exact ⟨rfl, rfl, nofun, nofun⟩
  | awaitRsp =>
    cases (Gate.exec_dispose_of_locked hphase).symm.trans h
    exact ⟨rfl, rfl, id, fun hne => absurd rfl hne⟩
  | disposed =>
    cases (Gate.exec_dispose_of_disposed hphase).symm.trans h
    exact ⟨rfl, rfl, id, fun _ => by simp [answered, hphase]⟩

theorem strayByte_of_kept {s : State} (b : Byte) (h : s.cfg.idleRx = .keep ∧ s.phase = .idle) :
    strayByte b s = { s with rxPending := s.rxPending ++ [b] } :=
  (strayByte_eq b s).trans (if_pos h)

theorem strayByte_of_dropped {s : State} (b : Byte) (h : ¬ (s.cfg.idleRx = .keep ∧ s.phase = .idle)) : strayByte b s = s :=
  (strayByte_eq b s).trans (if_neg h)

/-- A stray byte changes `RX_PENDING` alone. -/
theorem strayByte_frame (b : Byte) (s : State) : ∃ pending, strayByte b s = { s with rxPending := pending } := by
  by_cases h : s.cfg.idleRx = .keep ∧ s.phase = .idle
  · exact ⟨_, strayByte_of_kept b h⟩
  · exact ⟨s.rxPending, strayByte_of_dropped b h⟩

/-- Settles O44: no move writes the configuration. -/
theorem configurationIsLatched : Obligations.ConfigurationIsLatched := by
  intro s t hstep
  cases move_of_step hstep with
  | waits | ignores | answers => rfl
  | sends k c ans rest => exact (sendRequest_frame c _ (serving k ans rest s)).1
  | disposes k ans rest _ _ ht => exact (dispose_frame ht).1
  | receives b rest => exact (awaitByte_frame b (withInputs rest s)).1
  | strays b rest =>
    obtain ⟨pending, heq⟩ := strayByte_frame b (withInputs rest s)
    rw [heq]
    rfl
  | ends _ r rest => exact (finish_frame (.err r) (withInputs rest s)).1

/-- The frame of every bus command is a request frame of the block (30_encoding.md R71, R73 to R75). -/
theorem requestShape_requestOf (addr : Byte) (c : BusCommand) : requestShape addr (requestOf addr c).frame := by
  cases c with
  | readCoils | readAll => exact ⟨_, rfl, rfl, .inl ⟨rfl, .inl rfl⟩⟩
  | setChannel => exact ⟨_, rfl, rfl, .inl ⟨rfl, .inr rfl⟩⟩
  | setAll => exact ⟨_, rfl, rfl, .inr ⟨rfl, rfl⟩⟩

theorem ne_nil_of_requestShape {addr : Byte} {frame : List Byte} (h : requestShape addr frame) : frame ≠ [] := by
  obtain ⟨body, rfl, -⟩ := h
  simp [sealed]

/-- Settles O46: only a request that is sent puts bytes on the line. -/
theorem emittedFramesAreRequests : Obligations.EmittedFramesAreRequests := by
  intro s t hstep
  cases move_of_step hstep with
  | waits | ignores | answers => exact .inl rfl
  | sends k c ans rest =>
    have hshape := requestShape_requestOf s.cfg.deviceAddr c
    have hne := ne_nil_of_requestShape hshape
    obtain ⟨-, hnothing | hwhole | ⟨n, j, hpos, -, hcut, hans⟩⟩ :=
      sendRequest_frame c (requestOf s.cfg.deviceAddr c) (serving k ans rest s)
    · exact .inl hnothing
    · exact .inr ⟨_, _, hwhole, hshape, hne, List.prefix_rfl, .inl rfl⟩
    · exact .inr ⟨_, _, hcut, hshape, by simp [hne, hpos.ne'], List.take_prefix .., .inr ⟨j, hans⟩⟩
  | disposes k ans rest _ _ ht =>
    obtain ⟨-, hlog, -⟩ := dispose_frame ht
    exact .inl hlog
  | receives b rest =>
    obtain ⟨-, -, -, -, -, -, -, -, hlog, -⟩ := awaitByte_frame b (withInputs rest s)
    exact .inl hlog
  | strays b rest =>
    obtain ⟨pending, heq⟩ := strayByte_frame b (withInputs rest s)
    rw [heq]
    exact .inl rfl
  | ends _ r rest =>
    obtain ⟨-, -, -, -, -, -, -, -, hlog, -⟩ := finish_frame (.err r) (withInputs rest s)
    exact .inl hlog

/-- Settles O39: after disposal every bus command and `DISPOSE` are only answered, and no byte is kept. -/
theorem disposedIsForEver : Obligations.DisposedIsForEver := by
  intro s t hphase hstep
  cases move_of_step hstep with
  | waits | ignores | answers => exact ⟨hphase, rfl, rfl, rfl⟩
  | sends k c ans rest =>
    rw [Gate.sendRequest_of_disposed (s := serving k ans rest s) c _ hphase]
    exact ⟨hphase, rfl, rfl, rfl⟩
  | disposes k ans rest _ _ ht =>
    cases (Gate.exec_dispose_of_disposed (s := serving k ans rest s) hphase).symm.trans ht
    exact ⟨hphase, rfl, rfl, rfl⟩
  | receives _ _ _ hwait | ends _ _ _ _ _ hwait => cases hphase.symm.trans hwait
  | strays b rest =>
    have hdropped : ¬ (s.cfg.idleRx = .keep ∧ s.phase = .idle) := by simp [hphase]
    rw [strayByte_of_dropped (s := withInputs rest s) b hdropped]
    exact ⟨hphase, rfl, rfl, rfl⟩

/-! ### A disabled block -/

/-- Under the invariant a disabled block awaits no response: the lock's owner would be in flight. -/
theorem not_await_of_disabled {s : State} (h : Inv s) (hdis : s.cfg.enabled = false) : s.phase ≠ .awaitRsp := by
  intro hphase
  obtain ⟨k, howner⟩ := lockOwner_of_await h hphase
  obtain ⟨c, hk, -⟩ := h.ownerInflight k howner
  cases hdis.symm.trans (h.inflightEnabled k c hk)

/-- Settles O49: no command of a disabled block comes to be sent, and no response is awaited. -/
theorem disabledNeverTransmits : Obligations.DisabledNeverTransmits := by
  intro s t h hdis hstep
  have hphase := not_await_of_disabled h hdis
  cases move_of_step hstep with
  | waits | ignores | answers => exact ⟨rfl, id, hphase⟩
  | sends k c ans rest hsend =>
    obtain ⟨-, hen, -⟩ := checked_of_comesToSend h hsend
    cases hdis.symm.trans hen
  | disposes k ans rest _ _ ht =>
    obtain ⟨-, hlog, hport, hfree⟩ := dispose_frame ht
    exact ⟨hlog, hport, hfree hphase⟩
  | receives _ _ _ hwait | ends _ _ _ _ _ hwait => exact absurd hwait hphase
  | strays b rest =>
    obtain ⟨pending, heq⟩ := strayByte_frame b (withInputs rest s)
    rw [heq]
    exact ⟨rfl, id, hphase⟩

/-! ### Request registers outside a transaction -/

/-- `s` with other request registers. -/
def rewritten (cmd : ReqCmd) (addr fc : Byte) (start qty : Half) (s : State) : State :=
  { s with reqCmd := cmd, reqAddr := addr, reqFc := fc, reqStart := start, reqQty := qty }

theorem sameButRequest_refl (s : State) : sameButRequest s s := ⟨rfl, fun _ => rfl⟩

theorem sameOutcome_refl (o : Host.Outcome State Fault Refusal) : sameOutcome o o := by
  cases o with
  | next t => exact sameButRequest_refl t
  | fault r => cases r
  | refused r => exact rfl

section Rewritten

variable {s : State} (cmd : ReqCmd) (addr fc : Byte) (start qty : Half)

theorem sameButRequest_rewritten (h : s.phase ≠ .awaitRsp) : sameButRequest s (rewritten cmd addr fc start qty s) :=
  ⟨rfl, fun hphase => absurd hphase h⟩

/-- An answer shows no request register. -/
theorem sameButRequest_answered (k : CallerId) (r : Result) (h : s.phase ≠ .awaitRsp) :
    sameButRequest (answered k r s) (answered k r (rewritten cmd addr fc start qty s)) :=
  sameButRequest_rewritten (s := answered k r s) cmd addr fc start qty h

/-- Sending a request writes all five registers before any rule reads them (41_relay_commands.md R128). -/
theorem sendRequest_rewritten (c : BusCommand) (r : Request) (h : s.phase ≠ .awaitRsp) :
    sameButRequest (sendRequest c r s) (sendRequest c r (rewritten cmd addr fc start qty s)) := by
  rcases sendRequest_cases c r s with ⟨hp, heq⟩ | ⟨hp, -⟩ | ⟨hp, hclosed, hfail, heq⟩ | ⟨hp, hopen, heq⟩
  · rw [heq, Gate.sendRequest_of_disposed (s := rewritten cmd addr fc start qty s) c r hp]
    exact sameButRequest_answered cmd addr fc start qty s.cur _ h
  · exact absurd hp h
  · rw [heq, Gate.sendRequest_of_openFail (s := rewritten cmd addr fc start qty s) c r hp hclosed hfail]
    exact sameButRequest_answered cmd addr fc start qty s.cur _ h
  · rw [heq, Gate.sendRequest_of_open (s := rewritten cmd addr fc start qty s) c r hp hopen]
    exact sameButRequest_refl _

theorem dispose_rewritten (h : s.phase ≠ .awaitRsp) :
    sameOutcome (exec .dispose s) (exec .dispose (rewritten cmd addr fc start qty s)) := by
  cases hphase : s.phase with
  | idle =>
    rw [Gate.exec_dispose_of_idle hphase, Gate.exec_dispose_of_idle (s := rewritten cmd addr fc start qty s) hphase]
    exact sameButRequest_answered (s := { s with portOpen := false, rxPending := [], phase := .disposed })
      cmd addr fc start qty s.cur _ nofun
  | awaitRsp => exact absurd hphase h
  | disposed =>
    rw [Gate.exec_dispose_of_disposed hphase, Gate.exec_dispose_of_disposed (s := rewritten cmd addr fc start qty s) hphase]
    exact sameButRequest_answered cmd addr fc start qty s.cur _ h

theorem busInstr_rewritten (c : BusCommand) (h : s.phase ≠ .awaitRsp) :
    sameOutcome (exec (busInstr c) s) (exec (busInstr c) (rewritten cmd addr fc start qty s)) := by
  cases hargs : argError c with
  | some sub =>
    rw [BusCommands.exec_busInstr_of_argError s hargs,
        BusCommands.exec_busInstr_of_argError (rewritten cmd addr fc start qty s) hargs]
    exact sameButRequest_answered cmd addr fc start qty s.cur _ h
  | none =>
    have hlegal := (argError_eq_none c).mp hargs
    cases hen : s.cfg.enabled with
    | false =>
      rw [Gate.disabledGivesConfigError c s hlegal hen,
        Gate.disabledGivesConfigError c (rewritten cmd addr fc start qty s) hlegal hen]
      exact sameButRequest_answered cmd addr fc start qty s.cur _ h
    | true =>
      rw [Gate.exec_busInstr_of_enabled hlegal hen,
        Gate.exec_busInstr_of_enabled (s := rewritten cmd addr fc start qty s) hlegal hen]
      exact sendRequest_rewritten cmd addr fc start qty c _ h

theorem command_rewritten (c : Command) (h : s.phase ≠ .awaitRsp) :
    sameOutcome (exec (commandInstr c) s) (exec (commandInstr c) (rewritten cmd addr fc start qty s)) := by
  cases c with
  | crcCompute bytes length =>
    rw [commandInstr, Checksum.exec_crcCompute, Checksum.exec_crcCompute]
    exact sameButRequest_answered cmd addr fc start qty s.cur _ h
  | crcValidate frame =>
    rw [commandInstr, Checksum.exec_crcValidate, Checksum.exec_crcValidate]
    exact sameButRequest_answered cmd addr fc start qty s.cur _ h
  | bus c => exact busInstr_rewritten cmd addr fc start qty c h
  | dispose => exact dispose_rewritten cmd addr fc start qty h

theorem resume_rewritten (c : HeldCommand) (hheld : s.callerOf s.cur = .held c) (h : s.phase ≠ .awaitRsp) :
    sameOutcome (exec (resumeInstr c) s) (exec (resumeInstr c) (rewritten cmd addr fc start qty s)) := by
  cases c with
  | bus c =>
    rw [Gate.exec_resumeInstr_of_held hheld, Gate.exec_resumeInstr_of_held (s := rewritten cmd addr fc start qty s) hheld]
    exact sendRequest_rewritten cmd addr fc start qty _ _ h
  | dispose => exact dispose_rewritten cmd addr fc start qty h

theorem strayByte_rewritten (b : Byte) (h : s.phase ≠ .awaitRsp) :
    sameButRequest (strayByte b s) (strayByte b (rewritten cmd addr fc start qty s)) := by
  by_cases hkept : s.cfg.idleRx = .keep ∧ s.phase = .idle
  · rw [strayByte_of_kept b hkept, strayByte_of_kept (s := rewritten cmd addr fc start qty s) b hkept]
    exact sameButRequest_rewritten (s := { s with rxPending := s.rxPending ++ [b] }) cmd addr fc start qty h
  · rw [strayByte_of_dropped b hkept, strayByte_of_dropped (s := rewritten cmd addr fc start qty s) b hkept]
    exact sameButRequest_rewritten cmd addr fc start qty h

/-- While no response is awaited a step does not show the request registers it starts with. -/
theorem step_rewritten (h : s.phase ≠ .awaitRsp) : sameOutcome (step s) (step (rewritten cmd addr fc start qty s)) := by
  cases hin : s.inputs with
  | nil =>
    rw [Gate.step_wait hin, Gate.step_wait (s := rewritten cmd addr fc start qty s) hin]
    exact sameButRequest_rewritten cmd addr fc start qty h
  | cons e rest =>
    cases e with
    | present k c ans =>
      by_cases hfree : s.callerOf k = .free
      · rw [Checksum.step_present_free hin hfree,
          Checksum.step_present_free (s := rewritten cmd addr fc start qty s) hin hfree]
        exact command_rewritten (s := serving k ans rest s) cmd addr fc start qty c h
      · rw [Gate.step_present_busy hin hfree, Gate.step_present_busy (s := rewritten cmd addr fc start qty s) hin hfree]
        exact rfl
    | takeUp k ans =>
      by_cases hheld : ∃ c, s.callerOf k = .held c
      · obtain ⟨c, hheld⟩ := hheld
        rw [Gate.step_takeUp_held hin hheld, Gate.step_takeUp_held (s := rewritten cmd addr fc start qty s) hin hheld]
        exact resume_rewritten (s := serving k ans rest s) cmd addr fc start qty c hheld h
      · have hnot := not_exists.mp hheld
        rw [Gate.step_takeUp_not_held hin hnot, Gate.step_takeUp_not_held (s := rewritten cmd addr fc start qty s) hin hnot]
        exact sameButRequest_rewritten (s := withInputs rest s) cmd addr fc start qty h
    | rxByte b =>
      rw [Gate.step_rxByte_stray hin h, Gate.step_rxByte_stray (s := rewritten cmd addr fc start qty s) hin h]
      exact strayByte_rewritten (s := withInputs rest s) cmd addr fc start qty b h
    | timeout =>
      rw [(Reception.timeoutEndsTransaction s rest hin).2 h,
        (Reception.timeoutEndsTransaction (rewritten cmd addr fc start qty s) rest hin).2 h]
      exact sameButRequest_rewritten (s := withInputs rest s) cmd addr fc start qty h
    | ioFault =>
      rw [(Transactions.ioFaultEndsTransaction s rest hin).2 h,
        (Transactions.ioFaultEndsTransaction (rewritten cmd addr fc start qty s) rest hin).2 h]
      exact sameButRequest_rewritten (s := withInputs rest s) cmd addr fc start qty h

end Rewritten

/-- Settles O50: while a response is awaited the two states are one; otherwise the second is the first with its registers
rewritten. -/
theorem idleRequestRegistersAreUnobservable : Obligations.IdleRequestRegistersAreUnobservable := by
  rintro s s' ⟨hregisters, hawait⟩
  by_cases hphase : s.phase = .awaitRsp
  · rw [hawait hphase]
    exact sameOutcome_refl _
  · rw [hregisters]
    exact step_rewritten s'.reqCmd s'.reqAddr s'.reqFc s'.reqStart s'.reqQty hphase

end Sys2Proof.Proofs.WholeMachine
end

section
/-! PROOFS. Results: a step answers at most one caller, with a result its command allows, the lock is released with a result
for its owner, and in a fair run every caller that waits is answered (30_encoding.md R84, 43_relay_transaction.md R190, R191,
R194, 60_exceptions.md R223). -/

namespace Sys2Proof.Proofs.Results

open Machine Safety Moves Invariant
open Transmission (callerOf_answered callerOf_ended callerOf_setCaller callerOf_awaiting)
open Reception (withInputs buffered)

/-! ### The verdict on a response -/

/-- A response to a read gives an error or the coils of the request (42_relay_response.md R159, R160). -/
theorem resultReadCoils_cases (qty : Half) (frame : List Byte) :
    (∃ f, resultReadCoils qty frame = .err (.protocol .byteCountMismatch f)) ∨
      ∃ coils : List Bool, coils.length = qty.toNat ∧ resultReadCoils qty frame = .ok (.coils coils) := by
  rw [resultReadCoils]
  split
  · exact .inl ⟨_, rfl⟩
  · exact .inr ⟨_, by simp [unpack], rfl⟩

/-- The format's own result is one that the request's command allows. -/
theorem resultAllowed_format {s : State} {c : BusCommand} (h : RequestFor s c) (frame : List Byte) :
    resultAllowed (.bus c) (if s.reqFc = fcReadCoils then resultReadCoils s.reqQty frame
      else if s.reqFc = fcWriteSingleCoil then resultWriteSingle else resultWriteMultiple) = true := by
  obtain ⟨-, -, hreq⟩ := h
  cases c with
  | readCoils start count =>
    obtain ⟨-, hfc, -, hqty⟩ := hreq
    rw [if_pos hfc]
    rcases resultReadCoils_cases s.reqQty frame with ⟨f, heq⟩ | ⟨coils, hlen, heq⟩
    · rw [heq]; rfl
    · rw [heq]
      exact decide_eq_true ((congrArg Nat.cast hlen).trans hqty)
  | readAll =>
    obtain ⟨-, hfc, -, hqty⟩ := hreq
    rw [if_pos hfc]
    rcases resultReadCoils_cases s.reqQty frame with ⟨f, heq⟩ | ⟨coils, hlen, heq⟩
    · rw [heq]; rfl
    · rw [heq]
      exact decide_eq_true (hlen.trans (congrArg BitVec.toNat hqty))
  | setChannel =>
    obtain ⟨-, hfc, -⟩ := hreq
    rw [hfc]
    rfl
  | setAll =>
    obtain ⟨-, hfc, -⟩ := hreq
    rw [hfc]
    rfl

/-- Whatever frame arrives, its verdict is a result that the command in flight allows (60_exceptions.md R223). -/
theorem resultAllowed_verdict {s : State} {c : BusCommand} (h : RequestFor s c) (frame : List Byte) :
    resultAllowed (.bus c) (verdict s.reqAddr s.reqFc s.reqQty frame) = true := by
  cases hcrc : crcValid frame with
  | false =>
    rw [verdict_crc hcrc]
    exact resultAllowed_bus_err c fun _ _ => rfl
  | true =>
    by_cases haddr : byteAt frame 0 = s.reqAddr
    · cases hexc : exceptionBit frame with
      | true =>
        rw [verdict_exception hcrc haddr hexc, resultException]
        split <;> exact resultAllowed_bus_err c fun _ _ => rfl
      | false =>
        by_cases hfc : byteAt frame 1 = s.reqFc
        · rw [verdict_result hcrc haddr hexc hfc]
          exact resultAllowed_format h frame
        · rw [verdict_function hcrc haddr hexc hfc]
          exact resultAllowed_bus_err c fun _ _ => rfl
    · rw [verdict_address hcrc haddr]
      exact resultAllowed_bus_err c fun _ _ => rfl

/-! ### The transaction in flight -/

/-- Caller `k` owns the lock for command `c`. -/
structure Owns (s : State) (k : CallerId) (c : BusCommand) : Prop where
  inv : Inv s
  owner : s.lockOwner = some k
  inflight : s.callerOf k = .inflight c

theorem Owns.await {s : State} {k : CallerId} {c : BusCommand} (h : Owns s k c) : s.phase = .awaitRsp :=
  await_of_lockOwner h.inv h.owner

theorem Owns.requestFor {s : State} {k : CallerId} {c : BusCommand} (h : Owns s k c) : RequestFor s c := by
  obtain ⟨b, hb, hreq⟩ := h.inv.ownerInflight k h.owner
  cases h.inflight.symm.trans hb
  exact hreq

theorem owns_of_await {s : State} (h : Inv s) (hphase : s.phase = .awaitRsp) : ∃ k c, Owns s k c := by
  obtain ⟨k, howner⟩ := lockOwner_of_await h hphase
  obtain ⟨c, hinflight, -⟩ := h.ownerInflight k howner
  exact ⟨k, c, h, howner, hinflight⟩

theorem Owns.withInputs {s : State} {k : CallerId} {c : BusCommand} (h : Owns s k c) (events : List Event) :
    Owns (withInputs events s) k c :=
  ⟨inv_withInputs h.inv events, h.owner, h.inflight⟩

/-- A byte of a response leaves its transaction waiting, or ends it with a result for the owner. -/
theorem Owns.awaitByte {s : State} {k : CallerId} {c : BusCommand} (h : Owns s k c) (b : Byte) :
    (awaitByte b s = buffered s.inputs [b] s ∧ Owns (buffered s.inputs [b] s) k c) ∨
      ∃ r, resultAllowed (.bus c) r = true ∧ awaitByte b s = ended k r s := by
  have hexpect := h.inv.expectExact h.await
  by_cases hdone : responseLength s.cfg.excLength s.reqFc (s.rxBuf ++ [b]) = some (s.rxBuf.length + 1)
  · refine .inr ⟨_, resultAllowed_verdict h.requestFor (s.rxBuf ++ [b]), ?_⟩
    rw [Reception.awaitByte_complete hexpect hdone, Responses.interpret_of_owner _ h.owner]
  · exact .inl ⟨Reception.awaitByte_buffered hexpect hdone, inv_buffered h.inv h.await hdone, h.owner, h.inflight⟩

/-- Kept bytes fed to a decoder leave its transaction waiting, or end it with a result for the owner and go back to
`RX_PENDING` from there on (42_relay_response.md R150). -/
theorem Owns.feedPending {s : State} {k : CallerId} {c : BusCommand} (h : Owns s k c) (bytes : List Byte) :
    feedPending bytes s = buffered s.inputs bytes s ∨
      ∃ r left, resultAllowed (.bus c) r = true ∧
        feedPending bytes s = { ended k r s with rxPending := left ++ s.rxPending } := by
  induction bytes generalizing s with
  | nil => exact .inl (Reception.buffered_nil (h.inv.expectExact h.await)).symm
  | cons b more ih =>
    rw [Machine.feedPending, if_pos h.await]
    rcases h.awaitByte b with ⟨heq, hnext⟩ | ⟨r, hr, heq⟩
    · rw [heq]
      rcases ih hnext with hrest | ⟨r, left, hr, hrest⟩
      · exact .inl (hrest.trans (Reception.buffered_buffered ..))
      · exact .inr ⟨r, left, hr, hrest⟩
    · rw [heq, Reception.feedPending_of_not_await (s := ended k r s) more nofun]
      exact .inr ⟨r, more, hr, rfl⟩

/-! ### What a command does to its caller -/

/-- From `u` to `t` command `c` of caller `k` is answered with a result it allows, or not answered and waiting; no other
caller is touched. -/
structure Handled (k : CallerId) (c : Command) (u t : State) : Prop where
  others : ∀ j, j ≠ k → t.callerOf j = u.callerOf j
  outcome : t.results = u.results ∧ t.callerOf k ≠ .free ∨
    ∃ r, t.results = u.results ++ [(k, r)] ∧ resultAllowed c r = true ∧ t.callerOf k = .free

/-- The caller gets its result. -/
theorem Handled.of_answer {k : CallerId} {c : Command} {u t : State} {r : Result} (hr : resultAllowed c r = true)
    (hresults : t.results = u.results ++ [(k, r)]) (hcallers : ∀ j, t.callerOf j = if j = k then .free else u.callerOf j) :
    Handled k c u t :=
  ⟨fun j hj => (hcallers j).trans (if_neg hj), .inr ⟨r, hresults, hr, (hcallers k).trans (if_pos rfl)⟩⟩

/-- The caller goes on waiting. -/
theorem Handled.of_wait {k : CallerId} {c : Command} {u t : State} {w : CallerState} (hw : w ≠ .free)
    (hresults : t.results = u.results) (hcallers : ∀ j, t.callerOf j = if j = k then w else u.callerOf j) :
    Handled k c u t :=
  ⟨fun j hj => (hcallers j).trans (if_neg hj), .inl ⟨hresults, by rw [hcallers k, if_pos rfl]; exact hw⟩⟩

/-- Taking the event off the schedule and noting who is served touches neither callers nor results. -/
theorem Handled.of_serving {k j : CallerId} {c : Command} {s t : State} {ans : EnvAnswer} {rest : List Event}
    (h : Handled k c (serving j ans rest s) t) : Handled k c s t :=
  ⟨h.others, h.outcome⟩

theorem handled_answered {k : CallerId} {c : Command} {r : Result} (u : State) (hr : resultAllowed c r = true) :
    Handled k c u (answered k r u) :=
  .of_answer hr rfl (callerOf_answered k r u)

/-- A request that is sent is waiting, or answered at once because the write timed out or kept bytes completed it. -/
theorem handled_requested {s : State} {c : BusCommand} (h : Inv s) (hidle : s.phase = .idle)
    (hopen : s.portOpen = true ∨ s.answer.opening = .openOk) (hargs : argError c = none) (hen : s.cfg.enabled = true) :
    Handled s.cur (.bus c) s (sendRequest c (requestOf s.cfg.deviceAddr c) s) := by
  cases hsend : s.answer.sending with
  | writeTimeout j =>
    obtain ⟨n, hcut⟩ := sendRequest_cut c h hidle hopen hsend
    rw [hcut]
    exact .of_answer (resultAllowed_bus_err c fun _ _ => rfl) rfl (callerOf_answered s.cur _ (cutShort c n s))
  | sent =>
    have hread : ∀ j, (requested c s).callerOf j = if j = s.cur then .inflight c else s.callerOf j := callerOf_awaiting c _ _ _
    have howns : Owns (requested c s) s.cur c :=
      ⟨inv_requested h (by simp [hidle]) hargs hen, rfl, (hread s.cur).trans (if_pos rfl)⟩
    rw [sendRequest_sent c h hidle hopen hsend]
    rcases howns.feedPending s.rxPending with hfed | ⟨r, left, hr, hfed⟩
    · rw [hfed]
      exact .of_wait (w := .inflight c) nofun rfl hread
    · rw [hfed]
      refine .of_answer hr rfl fun j => (callerOf_ended s.cur r (requested c s) j).trans ?_
      rw [hread]
      split <;> rfl

theorem handled_sendRequest {s : State} {c : BusCommand} (h : Inv s) (hargs : argError c = none) (hen : s.cfg.enabled = true) :
    Handled s.cur (.bus c) s (sendRequest c (requestOf s.cfg.deviceAddr c) s) := by
  rcases sendRequest_cases c (requestOf s.cfg.deviceAddr c) s with
    ⟨-, hgone⟩ | ⟨-, hheld⟩ | ⟨-, -, -, hfailed⟩ | ⟨hidle, hopen, -⟩
  · rw [hgone]
    exact handled_answered s (resultAllowed_bus_err c fun _ _ => rfl)
  · rw [hheld]
    exact .of_wait (w := .held (.bus c)) nofun rfl (callerOf_setCaller s s.cur _)
  · rw [hfailed]
    exact handled_answered s (resultAllowed_bus_err c fun _ _ => rfl)
  · exact handled_requested h hidle hopen hargs hen

theorem handled_dispose {s t : State} (ht : exec .dispose s = .next t) : Handled s.cur .dispose s t := by
  cases hphase : s.phase with
  | idle =>
    cases (Gate.exec_dispose_of_idle hphase).symm.trans ht
    exact .of_answer rfl rfl (callerOf_answered s.cur _ _)
  | awaitRsp =>
    cases (Gate.exec_dispose_of_locked hphase).symm.trans ht
    exact .of_wait (w := .held .dispose) nofun rfl (callerOf_setCaller s s.cur _)
  | disposed =>
    cases (Gate.exec_dispose_of_disposed hphase).symm.trans ht
    exact handled_answered s rfl

/-! ### What a step does to the callers -/

/-- A step touches no caller, and none presents; or it handles the outstanding command of one caller, the only one that may
present. -/
theorem step_handled {s t : State} (h : Inv s) (hstep : step s = .next t) :
    (t.results = s.results ∧ (∀ j, t.callerOf j = s.callerOf j) ∧ ∀ j, ¬ presents s j) ∨
      ∃ k c, outstanding s k c ∧ (∀ j, presents s j → j = k) ∧ Handled k c s t := by
  have hsole : ∀ {k c ans rest}, s.inputs = .present k c ans :: rest → ∀ j, presents s j → j = k := by
    rintro k c ans rest hin j ⟨c', ans', rest', hin'⟩
    cases hin.symm.trans hin'
    rfl
  have hquiet : ∀ {e rest}, s.inputs = e :: rest → (∀ k c ans, e ≠ .present k c ans) → ∀ j, ¬ presents s j := by
    rintro e rest hin he j ⟨c, ans, rest', hin'⟩
    cases hin.symm.trans hin'
    exact he _ _ _ rfl
  cases move_of_step hstep with
  | waits hin =>
    refine .inl ⟨rfl, fun _ => rfl, ?_⟩
    rintro j ⟨c, ans, rest, hin'⟩
    cases hin.symm.trans hin'
  | ignores e rest hin he => exact .inl ⟨rfl, fun _ => rfl, hquiet hin he⟩
  | answers k c r ans rest hin hfree hr =>
    exact .inr ⟨k, c, .inl ⟨ans, rest, hin⟩, hsole hin, (handled_answered (serving k ans rest s) hr).of_serving⟩
  | sends k c ans rest hsend =>
    obtain ⟨hargs, hen, -, hin⟩ := checked_of_comesToSend h hsend
    have hhandled := handled_sendRequest (s := serving k ans rest s) (inv_serving h k ans rest) hargs hen
    rcases hin with hin | ⟨hin, hheld⟩
    · exact .inr ⟨k, .bus c, .inl ⟨ans, rest, hin⟩, hsole hin, hhandled.of_serving⟩
    · exact .inr ⟨k, .bus c, .inr (.inl hheld), fun j hj => absurd hj (hquiet hin nofun j), hhandled.of_serving⟩
  | disposes k ans rest _ hin ht =>
    have hhandled := handled_dispose ht
    rcases hin with ⟨hin, -⟩ | ⟨hin, hheld⟩
    · exact .inr ⟨k, .dispose, .inl ⟨ans, rest, hin⟩, hsole hin, hhandled.of_serving⟩
    · exact .inr ⟨k, .dispose, .inr hheld, fun j hj => absurd hj (hquiet hin nofun j), hhandled.of_serving⟩
  | receives b rest hin hphase =>
    obtain ⟨k, c, howns⟩ := owns_of_await h hphase
    have hnone := hquiet hin nofun
    rcases (howns.withInputs rest).awaitByte b with ⟨heq, -⟩ | ⟨r, hr, heq⟩
    · rw [heq]
      exact .inl ⟨rfl, fun _ => rfl, hnone⟩
    · rw [heq]
      exact .inr ⟨k, .bus c, .inr (.inr howns.inflight), fun j hj => absurd hj (hnone j),
        .of_answer hr rfl (callerOf_ended k r (withInputs rest s))⟩
  | strays b rest hin =>
    obtain ⟨pending, heq⟩ := WholeMachine.strayByte_frame b (withInputs rest s)
    rw [heq]
    exact .inl ⟨rfl, fun _ => rfl, hquiet hin nofun⟩
  | ends e r rest hin he hphase hr =>
    obtain ⟨k, c, howns⟩ := owns_of_await h hphase
    rw [finish_of_owner (s := withInputs rest s) _ howns.owner]
    exact .inr ⟨k, .bus c, .inr (.inr howns.inflight), fun j hj => absurd hj (hquiet hin he j),
      .of_answer (resultAllowed_bus_err c hr) rfl (callerOf_ended k _ (withInputs rest s))⟩

/-- A caller with an outstanding command presents it or waits. -/
theorem waits_of_outstanding {s : State} {k : CallerId} {c : Command} (h : outstanding s k c) :
    s.callerOf k ≠ .free ∨ presents s k := by
  rcases h with ⟨ans, rest, hin⟩ | hwait
  · exact .inr ⟨c, ans, rest, hin⟩
  · refine .inl fun hfree => ?_
    cases c with
    | bus b => simp [hfree] at hwait
    | dispose => simp [hfree] at hwait
    | crcCompute | crcValidate => exact hwait

/-- Settles O47: the one caller whose command is handled is answered or waits, and no other caller presents. -/
theorem oneResultPerCommand : Obligations.OneResultPerCommand := by
  intro s t h hstep
  rcases step_handled h hstep with ⟨hresults, hsame, hnone⟩ | ⟨k, c, hout, hsole, hothers, houtcome⟩
  · exact .inl ⟨hresults, fun j hj => by rw [hsame]; exact hj.resolve_right (hnone j)⟩
  · rcases houtcome with ⟨hresults, hwaiting⟩ | ⟨r, hresults, -, hfree⟩
    · refine .inl ⟨hresults, fun j hj => ?_⟩
      by_cases hjk : j = k
      · exact hjk ▸ hwaiting
      · rw [hothers j hjk]
        exact hj.resolve_right fun hp => hjk (hsole j hp)
    · exact .inr ⟨k, r, hresults, waits_of_outstanding hout, hfree, hothers⟩

/-- Settles O48: the result delivered is the one of the command handled. -/
theorem resultsFollowTheMatrix : Obligations.ResultsFollowTheMatrix := by
  intro s t k r h hstep hdelivered
  rcases step_handled h hstep with ⟨hresults, -⟩ | ⟨k', c, hout, -, -, ⟨hresults, -⟩ | ⟨r', hresults, hr, -⟩⟩
  · simp [hresults] at hdelivered
  · simp [hresults] at hdelivered
  · have hone : [(k', r')] = [(k, r)] := List.append_cancel_left (hresults.symm.trans hdelivered)
    cases hone
    exact ⟨c, hout, hr⟩

/-! ### The lock -/

/-- What a step may do while caller `k` owns the lock (43_relay_transaction.md R190): the line, the registers, the kept bytes and
the port stand, and the lock is kept, or it is released with a result for `k`. -/
def KeepsLock (k : CallerId) (s t : State) : Prop :=
  t.txLog = s.txLog ∧ t.reqCmd = s.reqCmd ∧ t.reqAddr = s.reqAddr ∧ t.reqFc = s.reqFc ∧ t.reqStart = s.reqStart ∧
    t.reqQty = s.reqQty ∧ t.rxPending = s.rxPending ∧ t.portOpen = s.portOpen ∧
      (t.phase = .awaitRsp ∧ t.lockOwner = some k ∧ t.callerOf k = s.callerOf k ∨
        t.phase = .idle ∧ t.lockOwner = none ∧ t.rxBuf = [] ∧ t.rxExpect = none ∧
          ∃ r, t.results = s.results ++ [(k, r)] ∧ t.callerOf k = .free)

/-- Another caller's state, and the record of results, do not bear on the lock. -/
theorem keepsLock_set_caller {s : State} {k j : CallerId} {c : BusCommand} (h : Owns s k c) (hne : k ≠ j) (w : CallerState)
    (events : List Event) (cur : CallerId) (ans : EnvAnswer) (results : List (CallerId × Result)) :
    KeepsLock k s { s with
      inputs := events, cur := cur, answer := ans, results := results, callers := callersSet s.callers j w } :=
  ⟨rfl, rfl, rfl, rfl, rfl, rfl, rfl, rfl, .inl ⟨h.await, h.owner, callersGet_set_other _ _ hne⟩⟩

theorem keepsLock_ended {s : State} {k : CallerId} (events : List Event) (r : Result) :
    KeepsLock k s (ended k r (withInputs events s)) :=
  ⟨rfl, rfl, rfl, rfl, rfl, rfl, rfl, rfl,
    .inr ⟨rfl, rfl, rfl, rfl, r, rfl, (callerOf_ended k r (withInputs events s) k).trans (if_pos rfl)⟩⟩

theorem step_keepsLock {s t : State} {k : CallerId} {c : BusCommand} (h : Owns s k c) (hstep : step s = .next t) :
    KeepsLock k s t := by
  have hstay : KeepsLock k s s := ⟨rfl, rfl, rfl, rfl, rfl, rfl, rfl, rfl, .inl ⟨h.await, h.owner, rfl⟩⟩
  have hother : ∀ {j}, (∀ b, s.callerOf j ≠ .inflight b) → k ≠ j := by
    rintro j hj rfl
    exact hj c h.inflight
  cases move_of_step hstep with
  | waits | ignores => exact hstay
  | answers j _ r ans rest _ hfree =>
    exact keepsLock_set_caller h (hother (by simp [hfree])) .free rest j ans (s.results ++ [(j, r)])
  | sends j b ans rest hsend =>
    obtain ⟨-, -, hj, -⟩ := checked_of_comesToSend h.inv hsend
    rw [Gate.sendRequest_of_locked (s := serving j ans rest s) b _ h.await]
    exact keepsLock_set_caller h (hother hj) (.held (.bus b)) rest j ans s.results
  | disposes j ans rest _ hin ht =>
    have hj : ∀ b, s.callerOf j ≠ .inflight b := by
      rcases hin with ⟨-, hj⟩ | ⟨-, hj⟩ <;> simp [hj]
    cases (Gate.exec_dispose_of_locked (s := serving j ans rest s) h.await).symm.trans ht
    exact keepsLock_set_caller h (hother hj) (.held .dispose) rest j ans s.results
  | receives b rest =>
    rcases (h.withInputs rest).awaitByte b with ⟨heq, -⟩ | ⟨r, -, heq⟩
    · rw [heq]
      exact ⟨rfl, rfl, rfl, rfl, rfl, rfl, rfl, rfl, .inl ⟨h.await, h.owner, rfl⟩⟩
    · rw [heq]
      exact keepsLock_ended rest r
  | strays _ _ _ hphase => exact absurd h.await hphase
  | ends _ r rest =>
    rw [finish_of_owner (s := withInputs rest s) _ h.owner]
    exact keepsLock_ended rest (.err r)

/-- Settles O45: the lock's owner is in flight, so every other move is another caller's. -/
theorem lockSerialisesTransactions : Obligations.LockSerialisesTransactions := by
  intro s t k h _ howner hstep
  obtain ⟨c, hinflight, -⟩ := h.ownerInflight k howner
  exact step_keepsLock ⟨h, howner, hinflight⟩ hstep

/-! ### Fair runs -/

theorem inv_arrive {s : State} (e : Event) (h : Inv s) : Inv (arrive e s) :=
  inv_withInputs h (s.inputs ++ [e])

/-- The invariant holds along every run that begins with it. -/
theorem inv_run {tr : Nat → State} (h : Inv (tr 0)) (hrun : Run tr) (n : Nat) : Inv (tr n) := by
  induction n with
  | zero => exact h
  | succ n ih =>
    rcases hrun n with hstep | ⟨e, harrive⟩
    · exact stepKeepsInvariant _ _ ih hstep
    · rw [harrive]
      exact inv_arrive e ih

/-- A caller in flight is answered next, or is in flight next. -/
theorem inflight_next {tr : Nat → State} (h : Inv (tr 0)) (hrun : Run tr) {n : Nat} {k : CallerId} {c : BusCommand}
    (hk : (tr n).callerOf k = .inflight c) : (tr (n + 1)).callerOf k = .free ∨ (tr (n + 1)).callerOf k = .inflight c := by
  have hinv := inv_run h hrun n
  rcases hrun n with hstep | ⟨e, harrive⟩
  · obtain ⟨-, -, -, -, -, -, -, -, ⟨-, -, hsame⟩ | ⟨-, -, -, -, r, -, hfree⟩⟩ :=
      step_keepsLock ⟨hinv, hinv.inflightOwner k c hk, hk⟩ hstep
    · exact .inr (hsame.trans hk)
    · exact .inl hfree
  · rw [harrive]
    exact .inr hk

/-- Until it is answered a caller in flight stays in flight. -/
theorem inflight_or_answered {tr : Nat → State} (h : Inv (tr 0)) (hrun : Run tr) {n : Nat} {k : CallerId} {c : BusCommand}
    (hk : (tr n).callerOf k = .inflight c) (d : Nat) :
    (∃ m, n ≤ m ∧ (tr m).callerOf k = .free) ∨ (tr (n + d)).callerOf k = .inflight c := by
  induction d with
  | zero => exact .inr hk
  | succ d ih =>
    rcases ih with hfree | hstill
    · exact .inl hfree
    · exact (inflight_next h hrun hstill).imp_left fun hfree => ⟨n + d + 1, by omega, hfree⟩

/-- `TIMEOUT_FAIRNESS` answers every caller in flight: it stays in flight only while a response is awaited. -/
theorem inflight_answered {tr : Nat → State} (h : Inv (tr 0)) (hrun : Run tr) (htimeout : TimeoutFairness tr) {n : Nat}
    {k : CallerId} {c : BusCommand} (hk : (tr n).callerOf k = .inflight c) : ∃ m, n ≤ m ∧ (tr m).callerOf k = .free := by
  have hinv := inv_run h hrun
  obtain ⟨m, hm, hphase⟩ := htimeout n (await_of_lockOwner (hinv n) ((hinv n).inflightOwner k c hk))
  obtain ⟨d, rfl⟩ := Nat.exists_eq_add_of_le hm
  exact (inflight_or_answered h hrun hk d).resolve_right (not_inflight_of_not_await (hinv _) hphase k c)

/-- Under `TIMEOUT_FAIRNESS` the lock is free again and again. -/
theorem lock_free_later {tr : Nat → State} (htimeout : TimeoutFairness tr) (m : Nat) :
    ∃ m', m ≤ m' ∧ (tr m').phase ≠ .awaitRsp := by
  by_cases hphase : (tr m).phase = .awaitRsp
  · exact htimeout m hphase
  · exact ⟨m, le_rfl, hphase⟩

/-- Settles O51: a held caller is taken up, as the lock is free again and again, and a caller in flight is answered. -/
theorem everyWaitingCallerIsAnswered : Obligations.EveryWaitingCallerIsAnswered := by
  intro tr h hrun htimeout hlock n k hwait
  cases hk : (tr n).callerOf k with
  | free => exact absurd hk hwait
  | inflight c => exact inflight_answered h hrun htimeout hk
  | held c =>
    obtain ⟨m, hm, hnot⟩ := hlock n k ⟨c, hk⟩ fun m _ => lock_free_later htimeout m
    cases hk' : (tr m).callerOf k with
    | free => exact ⟨m, hm, hk'⟩
    | held c' => exact absurd ⟨c', hk'⟩ hnot
    | inflight c' =>
      obtain ⟨m', hm', hfree⟩ := inflight_answered h hrun htimeout hk'
      exact ⟨m', hm.trans hm', hfree⟩

end Sys2Proof.Proofs.Results
end

section
/-! PROOFS. Code with subcode tell the errors apart (60_exceptions.md R220, R221). -/

namespace Sys2Proof.Proofs.ErrorCodes

open Machine

/-! ### The tables read backwards -/

/-- The kind of a code (60_exceptions.md R220). -/
def kindOfCode : Nat → ErrorKind
  | 1 => .argumentError
  | 2 => .timeout
  | 3 => .protocolError
  | 4 => .connectionError
  | _ => .configError

/-- The subkind of `ArgumentError` with a subcode (60_exceptions.md R221). -/
def argSubOfCode : Nat → ArgSub
  | 1 => .countRange
  | 2 => .startRange
  | 3 => .channelRange
  | 4 => .statesLength
  | _ => .badLength

/-- The frame check with a subcode (60_exceptions.md R221). -/
def protoSubOfCode : Nat → ProtoSub
  | 1 => .crcMismatch
  | 2 => .addressMismatch
  | 3 => .functionMismatch
  | _ => .byteCountMismatch

/-- The subkind of `ConnectionError` with a subcode (60_exceptions.md R221). -/
def connSubOfCode : Nat → ConnSub
  | 1 => .openFailed
  | 2 => .disposed
  | _ => .ioFault

theorem kindCode_injective : Function.Injective kindCode :=
  Function.LeftInverse.injective (g := kindOfCode) fun kind => by cases kind <;> rfl

theorem argument_subcode_injective : Function.Injective fun a : ArgSub => errorSubcode (.argument a) :=
  Function.LeftInverse.injective (g := argSubOfCode) fun a => by cases a <;> rfl

theorem connection_subcode_injective : Function.Injective fun x : ConnSub => errorSubcode (.connection x) :=
  Function.LeftInverse.injective (g := connSubOfCode) fun x => by cases x <;> rfl

/-- The subcode of a frame check depends on the check alone. -/
theorem protocol_subcode_injective {p q : ProtoSub} {f g : List Byte}
    (h : errorSubcode (.protocol p f) = errorSubcode (.protocol q g)) : p = q := by
  have hread : ∀ (x : ProtoSub) (frame : List Byte), protoSubOfCode (errorSubcode (.protocol x frame)) = x := fun x _ => by
    cases x <;> rfl
  rw [← hread p f, h, hread]

/-- `DEVICE_EXCEPTION` has a subcode of its own among the protocol errors (60_exceptions.md R221). -/
theorem protocol_subcode_ne_five (p : ProtoSub) (f : List Byte) : errorSubcode (.protocol p f) ≠ 5 := by
  cases p <;> exact nofun

/-- Settles O60: the code tells the kind, and within a kind the subcode tells the subkind. -/
theorem resultCodesTellErrorsApart : Obligations.ResultCodesTellErrorsApart := by
  intro e e' hcode hsub
  have hkind : errorKind e = errorKind e' := kindCode_injective hcode
  cases e with
  | argument a =>
    cases e' with
    | argument a' => exact argument_subcode_injective hsub
    | _ => cases hkind
  | timeoutRead n =>
    cases e' with
    | timeoutRead n' => trivial
    | timeoutWrite n' => cases hsub
    | _ => cases hkind
  | timeoutWrite n =>
    cases e' with
    | timeoutRead n' => cases hsub
    | timeoutWrite n' => trivial
    | _ => cases hkind
  | protocol p f =>
    cases e' with
    | protocol p' f' => exact protocol_subcode_injective hsub
    | deviceException => exact protocol_subcode_ne_five p f hsub
    | _ => cases hkind
  | deviceException =>
    cases e' with
    | protocol p' f' => exact protocol_subcode_ne_five p' f' hsub.symm
    | deviceException => trivial
    | _ => cases hkind
  | connection x =>
    cases e' with
    | connection x' => exact connection_subcode_injective hsub
    | _ => cases hkind
  | configDisabled =>
    cases e' with
    | configDisabled => trivial
    | _ => cases hkind

end Sys2Proof.Proofs.ErrorCodes
end
